-- ==== Sys2Proof/Word.lean ====
section
/-!
DEFINITION. The widths of the encoded items of the core (R56): micro-operation words are 16 bits, scalar digit
symbols and command codes are 8 bits. A field element is "an opaque fixed-width unsigned integer" that no rule
shifts, masks or splits (R41, R48), so it is a natural number here (canonical when it is
in `[0, p)`, R21) and not a bit vector; the bound by the width `W` is kept by the operations that write registers (R44, R76) and stated as an invariant in `Sys2Proof.Safety`.
-/

namespace Sys2Proof

/-- A micro-operation word (R57): `OP = word[15:12]`, `DST = word[11:8]`, `SA = word[7:4]`, `SB = word[3:0]`. -/
abbrev MicroWord := BitVec 16

/-- A scalar digit symbol (R66), the content of one entry of `DIG`, and the width of `LASTD` and `CUR`. -/
abbrev Symbol := BitVec 8

/-- A command code (R68), the value written to `CMD`, and the width of `CMDR`. -/
abbrev Code := BitVec 8

end Sys2Proof
end

