-- ==== Sys2Proof/Config.lean ====
section
/-!
DEFINITION. The parameters of the core (R10): what the model "takes as an argument". They are plain data, held in
the machine's state as a field that no step changes, so that a statement about every state is a statement about
every value of the parameters. The coefficient `a = -3` is no parameter: it is built into `ROM.DBL` (R10, R63, D1).
-/

namespace Sys2Proof

/-- What command `KP` does after a malformed digit (R10, R148). -/
inductive MalformedPolicy where
  /-- `ABORT`: `KP` finishes at the `FIN` step when `ERR_DIGIT = 1`. The value this hardware takes. -/
  | abort
  /-- `NORMALIZE_PARTIAL`: the converter runs on the partial accumulator. -/
  | normalizePartial
  deriving DecidableEq, Repr

/-- The field-arithmetic provider `FP` (R76). Its addition, subtraction and copy are fixed by R76; what is left to an
instance is the representation of the field, that is the value of `FP.one`, from which `FP.mul` and `FP.inv` follow
(log entry 3). -/
inductive Provider where
  /-- `FPref`, plain arithmetic modulo `p`, `one = 1` (R84). -/
  | reference
  /-- `FPmont`, Montgomery arithmetic with `R = 2^W`, `one = R mod p` (R85). -/
  | montgomery
  /-- Any other record that satisfies R76 and R86: its `one` is the free value `Config.externalOne`, or its negative
  where the free `Config.externalNegated` says so. -/
  | external
  deriving DecidableEq, Repr

/-- The parameters of R10 that stay arguments of the model. -/
structure Params where
  /-- `W`: width in bits of a field element. -/
  w : Nat
  /-- `NDIG`: capacity of the digit buffer in symbols. -/
  ndig : Nat
  /-- `MALFORMED_POLICY`. -/
  policy : MalformedPolicy
  /-- `FP`. -/
  provider : Provider
  deriving DecidableEq, Repr

/-- The ranges R10 gives: `W` is positive and `1 <= NDIG <= 65535`. -/
def Params.valid (c : Params) : Bool :=
  decide (0 < c.w) && decide (1 ≤ c.ndig) && decide (c.ndig ≤ 65535)

/-- The values the spec names: `W = 256` for the curve of the golden vector, `NDIG` "suggested 1024", the policy this
hardware takes, and the reference provider "used for every vector of this spec" (R10; open-parameter table of
`92_eei_decisions.md`). -/
def Config.standard : Params :=
  { w := 256, ndig := 1024, policy := .abort, provider := .reference }

/-- FREE VALUE (log entry 3): `FP.one` of a provider other than the two the spec writes out, up to its sign and before
reduction modulo `p`, as a function of the modulus alone. -/
opaque Config.externalOne : Nat → Nat

/-- FREE VALUE (log entry 3): whether, for that modulus and that constant, `FP.one` of such a provider is the negative of
`Config.externalOne`. `FP.inv` "depends on the listed arguments only", which leaves the constant out (R76), so the square
of `FP.one` does not depend on the constant, and this is all that can. -/
opaque Config.externalNegated : Nat → Nat → Bool

/-- The modulus of secp256r1, the curve the golden vector names (`93_implementation_defined.md` G10). -/
def Config.p256 : Nat := 0xffffffff00000001000000000000000000000000ffffffffffffffffffffffff

end Sys2Proof
end

