-- ==== Sys2Proof/Syntax.lean ====
section
/-!
DEFINITION. The syntax of the core's encoded items: the registers a micro-operation word can name (R13), the units of
the sequencer (R31), and `Instr`, the one inductive with a constructor for every row of `spec/opcode_table.json`.
-/

namespace Sys2Proof

/-- The named entries of `FREG` (R13), index 0 to 14. Index 15 is reserved (R20) and names nothing. -/
inductive Reg where
  | x | y | z | z2 | z3 | r0 | r1 | r2 | r3 | t0 | ax | ay | xa | ya | one
  deriving DecidableEq, Repr

/-- The operation types of R58. -/
inductive OpKind where
  | mul | add | sub | copy | inv
  deriving DecidableEq, Repr

/-- The values of the sequencer register `UNIT` (R31). The five that name a ROM are `init`, `dbl`, `add`, `aff1`,
`aff0`. -/
inductive SeqUnit where
  | idle | init | fetch | dbl | add | fin | affsel | aff1 | aff0
  deriving DecidableEq, Repr

/-- The encoded items of the core (R56), one constructor per row of the opcode table: the five micro-operation types
with their operands, the reserved operation codes, the 57 words of the five ROMs each at its own slot, the command
codes, and the scalar digit symbols. -/
inductive Instr where
  /-- `FMUL dst, sa, sb` (R78). -/
  | fmul (dst sa sb : Reg)
  /-- `FADD dst, sa, sb` (R79). -/
  | fadd (dst sa sb : Reg)
  /-- `FSUB dst, sa, sb` (R80). -/
  | fsub (dst sa sb : Reg)
  /-- `FCPY dst, sa` (R81). -/
  | fcpy (dst sa : Reg)
  /-- `FINV dst, sa` (R82). -/
  | finv (dst sa : Reg)
  /-- A word whose `OP` is 0 or 6 to 15 (R58, R61). -/
  | reservedOp (word : MicroWord)
  /-- `ROM.INIT[1]`, word 0x40A0: `FCPY X, AX` (R109). -/
  | romInit1
  /-- `ROM.INIT[2]`, word 0x41B0: `FCPY Y, AY` (R109). -/
  | romInit2
  /-- `ROM.INIT[3]`, word 0x42E0: `FCPY Z, ONE` (R109). -/
  | romInit3
  /-- `ROM.INIT[4]`, word 0x43E0: `FCPY Z2, ONE` (R109). -/
  | romInit4
  /-- `ROM.INIT[5]`, word 0x44E0: `FCPY Z3, ONE` (R109). -/
  | romInit5
  /-- `ROM.DBL[1]`, word 0x1500: `FMUL R0, X, X` (R91). -/
  | romDbl1
  /-- `ROM.DBL[2]`, word 0x1633: `FMUL R1, Z2, Z2` (R91). -/
  | romDbl2
  /-- `ROM.DBL[3]`, word 0x3556: `FSUB R0, R0, R1` (R91). -/
  | romDbl3
  /-- `ROM.DBL[4]`, word 0x4960: `FCPY T0, R1` (R91). -/
  | romDbl4
  /-- `ROM.DBL[5]`, word 0x2711: `FADD R2, Y, Y` (R91). -/
  | romDbl5
  /-- `ROM.DBL[6]`, word 0x1877: `FMUL R3, R2, R2` (R91). -/
  | romDbl6
  /-- `ROM.DBL[7]`, word 0x1227: `FMUL Z, Z, R2` (R91). -/
  | romDbl7
  /-- `ROM.DBL[8]`, word 0x1771: `FMUL R2, R2, Y` (R91). -/
  | romDbl8
  /-- `ROM.DBL[9]`, word 0x1008: `FMUL X, X, R3` (R91). -/
  | romDbl9
  /-- `ROM.DBL[10]`, word 0x1322: `FMUL Z2, Z, Z` (R91). -/
  | romDbl10
  /-- `ROM.DBL[11]`, word 0x2655: `FADD R1, R0, R0` (R91). -/
  | romDbl11
  /-- `ROM.DBL[12]`, word 0x2565: `FADD R0, R1, R0` (R91). -/
  | romDbl12
  /-- `ROM.DBL[13]`, word 0x1655: `FMUL R1, R0, R0` (R91). -/
  | romDbl13
  /-- `ROM.DBL[14]`, word 0x3960: `FSUB T0, R1, X` (R91). -/
  | romDbl14
  /-- `ROM.DBL[15]`, word 0x1778: `FMUL R2, R2, R3` (R91). -/
  | romDbl15
  /-- `ROM.DBL[16]`, word 0x3890: `FSUB R3, T0, X` (R91). -/
  | romDbl16
  /-- `ROM.DBL[17]`, word 0x3008: `FSUB X, X, R3` (R91). -/
  | romDbl17
  /-- `ROM.DBL[18]`, word 0x1550: `FMUL R0, R0, X` (R91). -/
  | romDbl18
  /-- `ROM.DBL[19]`, word 0x3157: `FSUB Y, R0, R2` (R91). -/
  | romDbl19
  /-- `ROM.DBL[20]`, word 0x1423: `FMUL Z3, Z, Z2` (R91). -/
  | romDbl20
  /-- `ROM.DBL[21]`, word 0x4080: `FCPY X, R3` (R91). -/
  | romDbl21
  /-- `ROM.ADD[1]`, word 0x15A3: `FMUL R0, AX, Z2` (R99). -/
  | romAdd1
  /-- `ROM.ADD[2]`, word 0x16B4: `FMUL R1, AY, Z3` (R99). -/
  | romAdd2
  /-- `ROM.ADD[3]`, word 0x3550: `FSUB R0, R0, X` (R99). -/
  | romAdd3
  /-- `ROM.ADD[4]`, word 0x4960: `FCPY T0, R1` (R99). -/
  | romAdd4
  /-- `ROM.ADD[5]`, word 0x2711: `FADD R2, Y, Y` (R99). -/
  | romAdd5
  /-- `ROM.ADD[6]`, word 0x1855: `FMUL R3, R0, R0` (R99). -/
  | romAdd6
  /-- `ROM.ADD[7]`, word 0x1225: `FMUL Z, Z, R0` (R99). -/
  | romAdd7
  /-- `ROM.ADD[8]`, word 0x1758: `FMUL R2, R0, R3` (R99). -/
  | romAdd8
  /-- `ROM.ADD[9]`, word 0x1008: `FMUL X, X, R3` (R99). -/
  | romAdd9
  /-- `ROM.ADD[10]`, word 0x1322: `FMUL Z2, Z, Z` (R99). -/
  | romAdd10
  /-- `ROM.ADD[11]`, word 0x2600: `FADD R1, X, X` (R99). -/
  | romAdd11
  /-- `ROM.ADD[12]`, word 0x2576: `FADD R0, R2, R1` (R99). -/
  | romAdd12
  /-- `ROM.ADD[13]`, word 0x1617: `FMUL R1, Y, R2` (R99). -/
  | romAdd13
  /-- `ROM.ADD[14]`, word 0x3991: `FSUB T0, T0, Y` (R99). -/
  | romAdd14
  /-- `ROM.ADD[15]`, word 0x1799: `FMUL R2, T0, T0` (R99). -/
  | romAdd15
  /-- `ROM.ADD[16]`, word 0x3875: `FSUB R3, R2, R0` (R99). -/
  | romAdd16
  /-- `ROM.ADD[17]`, word 0x3008: `FSUB X, X, R3` (R99). -/
  | romAdd17
  /-- `ROM.ADD[18]`, word 0x1590: `FMUL R0, T0, X` (R99). -/
  | romAdd18
  /-- `ROM.ADD[19]`, word 0x3156: `FSUB Y, R0, R1` (R99). -/
  | romAdd19
  /-- `ROM.ADD[20]`, word 0x1423: `FMUL Z3, Z, Z2` (R99). -/
  | romAdd20
  /-- `ROM.ADD[21]`, word 0x4080: `FCPY X, R3` (R99). -/
  | romAdd21
  /-- `ROM.AFF1[1]`, word 0x1522: `FMUL R0, Z, Z` (R125). -/
  | romAffOne1
  /-- `ROM.AFF1[2]`, word 0x5650: `FINV R1, R0` (R125). -/
  | romAffOne2
  /-- `ROM.AFF1[3]`, word 0x1C06: `FMUL XA, X, R1` (R125). -/
  | romAffOne3
  /-- `ROM.AFF1[4]`, word 0x1525: `FMUL R0, Z, R0` (R125). -/
  | romAffOne4
  /-- `ROM.AFF1[5]`, word 0x5650: `FINV R1, R0` (R125). -/
  | romAffOne5
  /-- `ROM.AFF1[6]`, word 0x1D16: `FMUL YA, Y, R1` (R125). -/
  | romAffOne6
  /-- `ROM.AFF0[1]`, word 0x5630: `FINV R1, Z2` (R126). -/
  | romAffZero1
  /-- `ROM.AFF0[2]`, word 0x1C06: `FMUL XA, X, R1` (R126). -/
  | romAffZero2
  /-- `ROM.AFF0[3]`, word 0x5640: `FINV R1, Z3` (R126). -/
  | romAffZero3
  /-- `ROM.AFF0[4]`, word 0x1D16: `FMUL YA, Y, R1` (R126). -/
  | romAffZero4
  /-- Command `DBL`, code 0x01 (R136). -/
  | cmdDbl
  /-- Command `ADD`, code 0x02 (R137). -/
  | cmdAdd
  /-- Command `SMUL`, code 0x03 (R138). -/
  | cmdSmul
  /-- Command `AFF`, code 0x04 (R139). -/
  | cmdAff
  /-- Command `KP`, code 0x05 (R140). -/
  | cmdKp
  /-- An illegal command code, 0x00 or 0x06 to 0xFF (R69, R141). -/
  | cmdIllegal (code : Code)
  /-- Digit symbol `'0'`, 0x30 (R112). -/
  | symZero
  /-- Digit symbol `'1'`, 0x31 (R113). -/
  | symOne
  /-- A malformed symbol, any code other than 0x30 and 0x31 (R67, R114). -/
  | symMalformed (symbol : Symbol)
  deriving DecidableEq, Repr

end Sys2Proof
end

