-- ==== Sys2Proof/WellFormed.lean ====
section
/-!
DEFINITION. Which terms of `Instr` stand for an encoded item of the spec (R60, R67, R69): the checks that the types of
the operands do not make by themselves.
-/

namespace Sys2Proof

/-- The legal destinations of a micro-operation (R60): the Point and scratch registers (0 to 9) and the two output
registers (12, 13); not the addend, not the hardwired one. -/
def Reg.legalDst : Reg → Bool
  | .ax | .ay | .one => false
  | _ => true

/-- The five scratch registers (R15). -/
def Reg.isScratch : Reg → Bool
  | .r0 | .r1 | .r2 | .r3 | .t0 => true
  | _ => false

/-- The five Point registers (R14). -/
def Reg.isPoint : Reg → Bool
  | .x | .y | .z | .z2 | .z3 => true
  | _ => false

/-- `OP` values that name no operation: 0x0 and 0x6 to 0xF (R58). -/
def reservedOpField (word : MicroWord) : Bool :=
  word.toNat / 4096 == 0 || 6 ≤ word.toNat / 4096

/-- The well-formed items: legal destination (R60), a reserved `OP` (R61), a code outside 0x01 to 0x05 (R69), a symbol
that is no digit (R67). -/
def wellFormed : Instr → Bool
  | .fmul dst _ _ | .fadd dst _ _ | .fsub dst _ _ | .fcpy dst _ | .finv dst _ => dst.legalDst
  | .reservedOp word => reservedOpField word
  | .cmdIllegal code => code.toNat == 0 || 6 ≤ code.toNat
  | .symMalformed symbol => symbol != 0x30#8 && symbol != 0x31#8
  | .romInit1 | .romInit2 | .romInit3 | .romInit4 | .romInit5 | .romDbl1 | .romDbl2 | .romDbl3 | .romDbl4
  | .romDbl5 | .romDbl6 | .romDbl7 | .romDbl8 | .romDbl9 | .romDbl10 | .romDbl11 | .romDbl12 | .romDbl13
  | .romDbl14 | .romDbl15 | .romDbl16 | .romDbl17 | .romDbl18 | .romDbl19 | .romDbl20 | .romDbl21 | .romAdd1
  | .romAdd2 | .romAdd3 | .romAdd4 | .romAdd5 | .romAdd6 | .romAdd7 | .romAdd8 | .romAdd9 | .romAdd10
  | .romAdd11 | .romAdd12 | .romAdd13 | .romAdd14 | .romAdd15 | .romAdd16 | .romAdd17 | .romAdd18 | .romAdd19
  | .romAdd20 | .romAdd21 | .romAffOne1 | .romAffOne2 | .romAffOne3 | .romAffOne4 | .romAffOne5 | .romAffOne6 | .romAffZero1
  | .romAffZero2 | .romAffZero3 | .romAffZero4 | .cmdDbl | .cmdAdd | .cmdSmul | .cmdAff | .cmdKp | .symZero
  | .symOne => true

end Sys2Proof
end

