-- ==== Sys2Proof/Decode.lean ====
section
/-!
DEFINITION. The decoders of the three encoded sets (R56 to R69), the contents of the five ROMs (R62), and the encoder.
Each set has its own total decoder; "the length of an item is known from the space it is read from, never from its
bits" (R56), so an item carries the space it stands in.
-/

namespace Sys2Proof

/-! ## Register fields (R59) -/

/-- The index of a register in `FREG` (R13, R59). -/
def regIndex : Reg → BitVec 4
  | .x => 0#4
  | .y => 1#4
  | .z => 2#4
  | .z2 => 3#4
  | .z3 => 4#4
  | .r0 => 5#4
  | .r1 => 6#4
  | .r2 => 7#4
  | .r3 => 8#4
  | .t0 => 9#4
  | .ax => 10#4
  | .ay => 11#4
  | .xa => 12#4
  | .ya => 13#4
  | .one => 14#4

/-- The register a 4-bit field names; index 15 is reserved and names none (R20). -/
def regOfIndex (i : BitVec 4) : Option Reg :=
  match i.toNat with
  | 0 => some .x
  | 1 => some .y
  | 2 => some .z
  | 3 => some .z2
  | 4 => some .z3
  | 5 => some .r0
  | 6 => some .r1
  | 7 => some .r2
  | 8 => some .r3
  | 9 => some .t0
  | 10 => some .ax
  | 11 => some .ay
  | 12 => some .xa
  | 13 => some .ya
  | 14 => some .one
  | _ => none

/-! ## The fields of a micro-operation word (R57) -/

/-- `OP = word[15:12]`. -/
def opField (w : MicroWord) : BitVec 4 := w.extractLsb' 12 4
/-- `DST = word[11:8]`. -/
def dstField (w : MicroWord) : BitVec 4 := w.extractLsb' 8 4
/-- `SA = word[7:4]`. -/
def saField (w : MicroWord) : BitVec 4 := w.extractLsb' 4 4
/-- `SB = word[3:0]`. -/
def sbField (w : MicroWord) : BitVec 4 := w.extractLsb' 0 4

/-- `word = OP || DST || SA || SB` (R57). -/
def joinFields (op dst sa sb : BitVec 4) : MicroWord :=
  (op ++ dst ++ sa ++ sb : BitVec 16)

/-- The shape of a word, its upper byte `OP || DST`, by the mask 0xFF00 (R65). -/
def shapeOf (w : MicroWord) : MicroWord := w &&& 0xFF00#16

/-- The `OP` value of an operation type (R58). -/
def opCode : OpKind → BitVec 4
  | .mul => 0x1#4
  | .add => 0x2#4
  | .sub => 0x3#4
  | .copy => 0x4#4
  | .inv => 0x5#4

/-- The word of a micro-operation; `SB` is 0 when the operation has one source (R57, R60). -/
def microWord (k : OpKind) (dst sa : Reg) (sb : Option Reg) : MicroWord :=
  joinFields (opCode k) (regIndex dst) (regIndex sa) (match sb with | some r => regIndex r | none => 0#4)

/-! ## The ROMs (R32, R62) -/

/-- `ROM.INIT`, 5 words (R109). -/
def romInitWords : List MicroWord :=
  [
    0x40A0#16, 0x41B0#16, 0x42E0#16, 0x43E0#16, 0x44E0#16]

/-- `ROM.DBL`, 21 words (R91). -/
def romDblWords : List MicroWord :=
  [
    0x1500#16, 0x1633#16, 0x3556#16, 0x4960#16, 0x2711#16, 0x1877#16, 0x1227#16,
    0x1771#16, 0x1008#16, 0x1322#16, 0x2655#16, 0x2565#16, 0x1655#16, 0x3960#16,
    0x1778#16, 0x3890#16, 0x3008#16, 0x1550#16, 0x3157#16, 0x1423#16, 0x4080#16]

/-- `ROM.ADD`, 21 words (R99). -/
def romAddWords : List MicroWord :=
  [
    0x15A3#16, 0x16B4#16, 0x3550#16, 0x4960#16, 0x2711#16, 0x1855#16, 0x1225#16,
    0x1758#16, 0x1008#16, 0x1322#16, 0x2600#16, 0x2576#16, 0x1617#16, 0x3991#16,
    0x1799#16, 0x3875#16, 0x3008#16, 0x1590#16, 0x3156#16, 0x1423#16, 0x4080#16]

/-- `ROM.AFF1`, 6 words (R125). -/
def romAff1Words : List MicroWord :=
  [
    0x1522#16, 0x5650#16, 0x1C06#16, 0x1525#16, 0x5650#16, 0x1D16#16]

/-- `ROM.AFF0`, 4 words (R126). -/
def romAff0Words : List MicroWord :=
  [
    0x5630#16, 0x1C06#16, 0x5640#16, 0x1D16#16]

/-- The ROM that `UNIT` names (R43); the other units name none. -/
def romWords : SeqUnit → List MicroWord
  | .init => romInitWords
  | .dbl => romDblWords
  | .add => romAddWords
  | .aff1 => romAff1Words
  | .aff0 => romAff0Words
  | .idle | .fetch | .fin | .affsel => []

/-- The number of words of `ROM.<unit>`: 5, 21, 21, 6, 4 (R62, R142), and 0 for a unit that names no ROM. -/
def romLength : SeqUnit → Nat
  | .init => 5
  | .dbl => 21
  | .add => 21
  | .aff1 => 6
  | .aff0 => 4
  | .idle | .fetch | .fin | .affsel => 0

/-- `MemRead(ROM.<unit>, k, 1)` (R43). -/
def romWord (unit : SeqUnit) (k : Nat) : Option MicroWord := (romWords unit)[k]?

/-- The rows of the opcode table that stand for the words of `ROM.<unit>`, in slot order. -/
def romRows : SeqUnit → List Instr
  | .init => [
    .romInit1, .romInit2, .romInit3, .romInit4, .romInit5]
  | .dbl => [
    .romDbl1, .romDbl2, .romDbl3, .romDbl4, .romDbl5, .romDbl6, .romDbl7,
    .romDbl8, .romDbl9, .romDbl10, .romDbl11, .romDbl12, .romDbl13, .romDbl14,
    .romDbl15, .romDbl16, .romDbl17, .romDbl18, .romDbl19, .romDbl20, .romDbl21]
  | .add => [
    .romAdd1, .romAdd2, .romAdd3, .romAdd4, .romAdd5, .romAdd6, .romAdd7,
    .romAdd8, .romAdd9, .romAdd10, .romAdd11, .romAdd12, .romAdd13, .romAdd14,
    .romAdd15, .romAdd16, .romAdd17, .romAdd18, .romAdd19, .romAdd20, .romAdd21]
  | .aff1 => [
    .romAffOne1, .romAffOne2, .romAffOne3, .romAffOne4, .romAffOne5, .romAffOne6]
  | .aff0 => [
    .romAffZero1, .romAffZero2, .romAffZero3, .romAffZero4]
  | .idle | .fetch | .fin | .affsel => []

/-- The row for the word at 0-based index `k` of `ROM.<unit>`, which is slot `k + 1` (R11). -/
def romRow (unit : SeqUnit) (k : Nat) : Option Instr := (romRows unit)[k]?

/-! ## Decoding -/

/-- An encoded item together with the space it is read from (R56). -/
inductive Item where
  /-- A micro-operation word that is not the word of a ROM slot. No ROM holds one that the tables of R62 do not list,
  so on this hardware only `State.injected` presents one (log entry 6). -/
  | word (w : MicroWord)
  /-- The word read at index `k` of `ROM.<unit>` (R43). -/
  | slot (unit : SeqUnit) (k : Nat) (w : MicroWord)
  /-- A code written to `CMD` (R68). -/
  | command (code : Code)
  /-- A symbol fetched from `DIG` (R67). -/
  | symbol (s : Symbol)
  deriving DecidableEq, Repr

/-- Why a 16-bit word whose `OP` names an operation is not legal (R60, R61). -/
inductive DecodeError where
  /-- `DST` is 10, 11 or 14. -/
  | illegalDst (w : MicroWord)
  /-- A register field is 15. -/
  | reservedRegister (w : MicroWord)
  /-- `SB` is not 0 on a one-source operation. -/
  | nonzeroSb (w : MicroWord)
  deriving DecidableEq, Repr

/-- The word an illegal-word verdict is about. -/
def DecodeError.theWord : DecodeError → MicroWord
  | .illegalDst w | .reservedRegister w | .nonzeroSb w => w

/-- The destination field of a word, when it is legal (R60). -/
def decodeDst (w : MicroWord) : Except DecodeError Reg :=
  match regOfIndex (dstField w) with
  | none => .error (.reservedRegister w)
  | some dst => if dst.legalDst then .ok dst else .error (.illegalDst w)

/-- The operands of a two-source word (R60). -/
def decodeTwo (w : MicroWord) (make : Reg → Reg → Reg → Instr) : Except DecodeError Instr :=
  match decodeDst w with
  | .error e => .error e
  | .ok dst =>
    match regOfIndex (saField w), regOfIndex (sbField w) with
    | some sa, some sb => .ok (make dst sa sb)
    | _, _ => .error (.reservedRegister w)

/-- The operands of a one-source word: `SB` must be exactly 0 (R60). -/
def decodeOne (w : MicroWord) (make : Reg → Reg → Instr) : Except DecodeError Instr :=
  match decodeDst w with
  | .error e => .error e
  | .ok dst =>
    match regOfIndex (saField w) with
    | none => .error (.reservedRegister w)
    | some sa => if sbField w = 0#4 then .ok (make dst sa) else .error (.nonzeroSb w)

/-- The decoder of micro-operation words (R57 to R61), total. A reserved `OP` is the table's row of that name. -/
def decodeMicro (w : MicroWord) : Except DecodeError Instr :=
  match (opField w).toNat with
  | 1 => decodeTwo w .fmul
  | 2 => decodeTwo w .fadd
  | 3 => decodeTwo w .fsub
  | 4 => decodeOne w .fcpy
  | 5 => decodeOne w .finv
  | _ => .ok (.reservedOp w)

/-- The decoder of command codes (R68, R69), total. -/
def decodeCommand (c : Code) : Instr :=
  match c.toNat with
  | 1 => .cmdDbl
  | 2 => .cmdAdd
  | 3 => .cmdSmul
  | 4 => .cmdAff
  | 5 => .cmdKp
  | _ => .cmdIllegal c

/-- The decoder of digit symbols, by full 8-bit comparison (R67), total. -/
def decodeSymbol (s : Symbol) : Instr :=
  if s = 0x30#8 then .symZero else if s = 0x31#8 then .symOne else .symMalformed s

/-- The decoder. The word of a ROM slot is that slot's row of the opcode table; a word that is not the one the tables
of R62 list there is decoded by its fields alone. -/
def decode : Item → Except DecodeError Instr
  | .word w => decodeMicro w
  | .slot unit k w =>
    if romWord unit k = some w then
      match romRow unit k with
      | some i => .ok i
      | none => decodeMicro w
    else decodeMicro w
  | .command c => .ok (decodeCommand c)
  | .symbol s => .ok (decodeSymbol s)

/-! ## Encoding -/

/-- The encoded item of an instruction, written from the encoding tables of R57 to R69 and the listings of R62. -/
def encode : Instr → Item
  | .fmul dst sa sb => .word (microWord .mul dst sa (some sb))
  | .fadd dst sa sb => .word (microWord .add dst sa (some sb))
  | .fsub dst sa sb => .word (microWord .sub dst sa (some sb))
  | .fcpy dst sa => .word (microWord .copy dst sa none)
  | .finv dst sa => .word (microWord .inv dst sa none)
  | .reservedOp w => .word w
  | .romInit1 => .slot .init 0 0x40A0#16
  | .romInit2 => .slot .init 1 0x41B0#16
  | .romInit3 => .slot .init 2 0x42E0#16
  | .romInit4 => .slot .init 3 0x43E0#16
  | .romInit5 => .slot .init 4 0x44E0#16
  | .romDbl1 => .slot .dbl 0 0x1500#16
  | .romDbl2 => .slot .dbl 1 0x1633#16
  | .romDbl3 => .slot .dbl 2 0x3556#16
  | .romDbl4 => .slot .dbl 3 0x4960#16
  | .romDbl5 => .slot .dbl 4 0x2711#16
  | .romDbl6 => .slot .dbl 5 0x1877#16
  | .romDbl7 => .slot .dbl 6 0x1227#16
  | .romDbl8 => .slot .dbl 7 0x1771#16
  | .romDbl9 => .slot .dbl 8 0x1008#16
  | .romDbl10 => .slot .dbl 9 0x1322#16
  | .romDbl11 => .slot .dbl 10 0x2655#16
  | .romDbl12 => .slot .dbl 11 0x2565#16
  | .romDbl13 => .slot .dbl 12 0x1655#16
  | .romDbl14 => .slot .dbl 13 0x3960#16
  | .romDbl15 => .slot .dbl 14 0x1778#16
  | .romDbl16 => .slot .dbl 15 0x3890#16
  | .romDbl17 => .slot .dbl 16 0x3008#16
  | .romDbl18 => .slot .dbl 17 0x1550#16
  | .romDbl19 => .slot .dbl 18 0x3157#16
  | .romDbl20 => .slot .dbl 19 0x1423#16
  | .romDbl21 => .slot .dbl 20 0x4080#16
  | .romAdd1 => .slot .add 0 0x15A3#16
  | .romAdd2 => .slot .add 1 0x16B4#16
  | .romAdd3 => .slot .add 2 0x3550#16
  | .romAdd4 => .slot .add 3 0x4960#16
  | .romAdd5 => .slot .add 4 0x2711#16
  | .romAdd6 => .slot .add 5 0x1855#16
  | .romAdd7 => .slot .add 6 0x1225#16
  | .romAdd8 => .slot .add 7 0x1758#16
  | .romAdd9 => .slot .add 8 0x1008#16
  | .romAdd10 => .slot .add 9 0x1322#16
  | .romAdd11 => .slot .add 10 0x2600#16
  | .romAdd12 => .slot .add 11 0x2576#16
  | .romAdd13 => .slot .add 12 0x1617#16
  | .romAdd14 => .slot .add 13 0x3991#16
  | .romAdd15 => .slot .add 14 0x1799#16
  | .romAdd16 => .slot .add 15 0x3875#16
  | .romAdd17 => .slot .add 16 0x3008#16
  | .romAdd18 => .slot .add 17 0x1590#16
  | .romAdd19 => .slot .add 18 0x3156#16
  | .romAdd20 => .slot .add 19 0x1423#16
  | .romAdd21 => .slot .add 20 0x4080#16
  | .romAffOne1 => .slot .aff1 0 0x1522#16
  | .romAffOne2 => .slot .aff1 1 0x5650#16
  | .romAffOne3 => .slot .aff1 2 0x1C06#16
  | .romAffOne4 => .slot .aff1 3 0x1525#16
  | .romAffOne5 => .slot .aff1 4 0x5650#16
  | .romAffOne6 => .slot .aff1 5 0x1D16#16
  | .romAffZero1 => .slot .aff0 0 0x5630#16
  | .romAffZero2 => .slot .aff0 1 0x1C06#16
  | .romAffZero3 => .slot .aff0 2 0x5640#16
  | .romAffZero4 => .slot .aff0 3 0x1D16#16
  | .cmdDbl => .command 0x01#8
  | .cmdAdd => .command 0x02#8
  | .cmdSmul => .command 0x03#8
  | .cmdAff => .command 0x04#8
  | .cmdKp => .command 0x05#8
  | .cmdIllegal code => .command code
  | .symZero => .symbol 0x30#8
  | .symOne => .symbol 0x31#8
  | .symMalformed s => .symbol s

/-! ## The opcode table's words -/

/-- The first slot that holds `w` in the ROMs taken in the table's order. -/
def findSlot (w : MicroWord) : Option (SeqUnit × Nat) :=
  let try1 (u : SeqUnit) (rest : Option (SeqUnit × Nat)) : Option (SeqUnit × Nat) :=
    match (romWords u).findIdx? (fun v => v == w) with
    | some k => some (u, k)
    | none => rest
  try1 .init (try1 .dbl (try1 .add (try1 .aff1 (try1 .aff0 none))))

/-- The item a table word of `nbits` bits stands for, with the most exact row first (log entry 7): a 16-bit word that
some ROM slot holds is that slot's, any other is a bare word; of the 8-bit values 0x00 to 0x05 are the exact command
rows and the rest are symbols, `SYM.MALFORMED` being the table's "catch-all to be tried after SYM.0 and SYM.1". -/
def tableItem (nbits w : Nat) : Option Item :=
  if nbits = 16 then
    if w < 65536 then
      match findSlot (BitVec.ofNat 16 w) with
      | some (u, k) => some (.slot u k (BitVec.ofNat 16 w))
      | none => some (.word (BitVec.ofNat 16 w))
    else none
  else if nbits = 8 then
    if w < 6 then some (.command (BitVec.ofNat 8 w))
    else if w < 256 then some (.symbol (BitVec.ofNat 8 w))
    else none
  else none

/-- The instruction the decoder reads from a table word. -/
def decodeTableWord (nbits w : Nat) : Option Instr :=
  match tableItem nbits w with
  | none => none
  | some it =>
    match decode it with
    | .ok i => some i
    | .error _ => none

end Sys2Proof
end

