-- ==== Sys2Proof/Machine/State.lean ====
section
/-!
DEFINITION. The state of the core: every register the spec gives it (`10_state.md`), the digit buffer, the sequencer's
own registers, the trace, and the fields of the model that stand for the host and the parameters. Everything is plain
data. The fixed ROM tables are constants of the hardware and no state (R32): they stand in `Sys2Proof.Decode`.
-/

namespace Sys2Proof.Machine

/-- What a field register, `P` or `MC` holds: "either a value in `[0, p)` or no value (unwritten)" (R21). `unwritten`
is a state the spec itself gives a register: after reset (R36), and again whenever the scratch registers are
invalidated (R16). -/
inductive Content where
  | unwritten
  | value (v : Nat)
  deriving DecidableEq, Repr

/-- The register file `FREG` (R13): the 14 entries that are storage. Entry 14, `ONE`, is hardwired (R19) and entry 15
is reserved (R20), so neither has a field. -/
structure RegFile where
  x : Content
  y : Content
  z : Content
  z2 : Content
  z3 : Content
  r0 : Content
  r1 : Content
  r2 : Content
  r3 : Content
  t0 : Content
  ax : Content
  ay : Content
  xa : Content
  ya : Content
  deriving DecidableEq, Repr

/-- The digit buffer `DIG` (R23, R42): (index, symbol) pairs, indices strictly rising. An index that is not listed is
an entry nothing has written since reset; it holds no symbol (`Memory.read` answers `none`). -/
abbrev Memory := List Host.Cell

/-- One event of the trace (R34): `(unit, slot, op, dst, sa, sb)`, with `sb` absent for `FCPY` and `FINV`. -/
structure Event where
  unit : SeqUnit
  slot : Nat
  op : OpKind
  dst : Reg
  sa : Reg
  sb : Option Reg
  deriving DecidableEq, Repr

/-- What the outside world does next, one entry per step of the machine (MODEL's own; log entry 5). -/
inductive Input where
  /-- The transaction `HostRead(ha)` (R44). -/
  | read (ha : Nat)
  /-- The transaction `HostWrite(ha, v)` (R44). -/
  | write (ha v : Nat)
  /-- The reset event, an input that "may occur in any state" (R170). -/
  | reset
  /-- The host does nothing while the sequencer takes one step (R142). -/
  | tick
  /-- The host line `WAIT` (R72): `HostRead(STATUS)` repeated until `DONE` reads 1. -/
  | waitDone
  deriving DecidableEq, Repr

/-- What the last host transaction returned (MODEL's own; log entry 5). -/
inductive Reply where
  /-- No transaction has been made since reset. -/
  | none
  /-- A write was accepted. -/
  | done
  /-- A read returned this value. -/
  | value (v : Nat)
  /-- `HostRefused`: the transaction was refused, the machine is as before, and a read returned no value (R163). -/
  | refused
  deriving DecidableEq, Repr

/-- The state of the core. -/
structure State where
  /-- The parameters of R10 (MODEL's own field; no step changes it). -/
  params : Params
  /-- `FREG` (R13). -/
  regs : RegFile
  /-- `P`, the field modulus (R27). -/
  p : Content
  /-- `MC`, the Montgomery constant (R28). -/
  mc : Content
  /-- `DIG`, the digit buffer (R23). -/
  dig : Memory
  /-- `LEN`, the number of symbols (R24). -/
  len : BitVec 16
  /-- `DPOS`, the program counter of the driver (R25). -/
  dpos : BitVec 16
  /-- `LASTD`, the symbol the converter inspects (R26). -/
  lastd : Symbol
  /-- `STATUS` (R30); its bits are named in `Sys2Proof.Machine.Flags`. -/
  status : BitVec 8
  /-- `UNIT` (R31). -/
  unit : SeqUnit
  /-- `UPC`, the 0-based index of the next word in the ROM that `UNIT` names, 0 to 20 (R31). -/
  upc : Nat
  /-- `CMDR`, the code of the command being run (R31). -/
  cmdr : Code
  /-- `CUR`, the symbol fetched for the current digit (R31). -/
  cur : Symbol
  /-- The trace (R34), oldest event first. -/
  trace : List Event
  /-- What the outside world does in the coming steps (MODEL's own; log entry 5). -/
  inputs : List Input
  /-- What the last host transaction returned (MODEL's own; log entry 5). -/
  reply : Reply
  /-- A word the next micro-operation fetch takes instead of the ROM's word (MODEL's own; log entry 6). Reset leaves it
  empty and no step fills it: the ROMs are fixed and "there is no way for a program or the host to present a word to
  the decoder" (R61). -/
  injected : Option MicroWord
  deriving DecidableEq, Repr

/-- What a step reads when it raises `UnwrittenRead` (R160). -/
inductive Source where
  | reg (r : Reg)
  | modulus
  | constant
  | dig (i : Nat)
  deriving DecidableEq, Repr

/-- The model faults: "an outcome of a step for which this spec refuses to give a value" (R159). `HostRefused`, which
R159 lists beside them, "does not end the run" (R163) and is the reply `Reply.refused`. -/
inductive Fault where
  /-- `UnwrittenRead` (R160): raised by the accept step (`P`, `MC`), by the operand reads of a micro-operation, by the
  fetch step and by the `FIN` step (`DIG`). "Reading an unwritten register is a model fault, never a value" (R21; U7,
  D20). Safe: the hardware goes on with unspecified bits. -/
  | unwrittenRead (src : Source)
  /-- `BadModulus` (R161): raised by the accept step of a legal command. Safe: the hardware does not check. -/
  | badModulus (p : Nat)
  /-- `LenOutOfRange` (R161): raised by the accept step of `SMUL` and `KP`. Safe. -/
  | lenOutOfRange (len : BitVec 16)
  /-- `NonCanonical` (R161): raised by an operand read of a micro-operation. Safe: the hardware does not check. -/
  | nonCanonical (r : Reg)
  /-- `IllegalMicroOp` (R61, R161): raised for a word that is not legal. Safe; it "cannot occur with the ROMs of this
  spec". -/
  | illegalMicroOp (w : MicroWord)
  /-- `FinvZero` (R162): raised by `FINV` of 0, "undefined for `a=0`". Safe. -/
  | finvZero
  /-- A micro-operation fetch at an index its ROM does not have: an address that does not exist. Raised by the
  micro-operation fetch. Safe; "`UPC` is always below the ROM's length when a fetch happens" (R43). -/
  | noRomWord (unit : SeqUnit) (upc : Nat)
  /-- A sequencer read of `DIG` at an index of `NDIG` or more: an address that does not exist. Raised by the fetch and
  the `FIN` step. Safe; "no sequencer read is out of range" (R42). -/
  | noDigEntry (i : Nat)
  deriving DecidableEq, Repr

/-- Refusals: an instruction without a meaning. -/
inductive Refusal where
  /-- Raised by an arm of `exec` whose instruction has no meaning yet. Safe. No arm of this model raises it. -/
  | notModelled (mnemonic : String)
  deriving DecidableEq, Repr

/-- What one step answers. -/
abbrev Result := Host.Outcome State Fault Refusal

/-- A register file that nothing has written (R36). -/
def RegFile.unwritten : RegFile :=
  { x := .unwritten, y := .unwritten, z := .unwritten, z2 := .unwritten, z3 := .unwritten,
    r0 := .unwritten, r1 := .unwritten, r2 := .unwritten, r3 := .unwritten, t0 := .unwritten,
    ax := .unwritten, ay := .unwritten, xa := .unwritten, ya := .unwritten }

/-- The reset state under given parameters (R36, R171). -/
def State.resetWith (c : Params) : State :=
  { params := c, regs := RegFile.unwritten, p := .unwritten, mc := .unwritten, dig := [],
    len := 0#16, dpos := 0#16, lastd := 0x00#8, status := 0x00#8,
    unit := .idle, upc := 0, cmdr := 0x00#8, cur := 0x00#8, trace := [],
    inputs := [], reply := .none, injected := none }

/-- The core right after reset (R36, R171), with the parameter values the spec names (R10). -/
def State.reset : State := State.resetWith Config.standard

end Sys2Proof.Machine
end

