-- ==== Sys2Proof/Machine/Flags.lean ====
section
/-!
DEFINITION. The fields of `STATUS` (R30). They are the core's only flags: "no condition codes, no carry or zero flag"
(R33), and no micro-operation changes one (R77).
-/

namespace Sys2Proof.Machine

/-- The named bits of `STATUS` (R30). Bit 7 is reserved and reads 0. -/
inductive Flag where
  | busy | done | errDigit | errNorm | errCmd | outValid | branch
  deriving DecidableEq, Repr

/-- The bit number of a field of `STATUS` (R30). -/
def flagBit : Flag → Nat
  | .busy => 0
  | .done => 1
  | .errDigit => 2
  | .errNorm => 3
  | .errCmd => 4
  | .outValid => 5
  | .branch => 6

/-- The byte with only the bit of `f` set. -/
def flagMask (f : Flag) : BitVec 8 := 1#8 <<< flagBit f

/-- The value of one field of a `STATUS` byte. -/
def getFlag (status : BitVec 8) (f : Flag) : Bool := status.getLsbD (flagBit f)

/-- A `STATUS` byte with one field set to `b`. -/
def putFlag (status : BitVec 8) (f : Flag) (b : Bool) : BitVec 8 :=
  if b then status ||| flagMask f else status &&& ~~~ flagMask f

/-- `STATUS.<f>` of a state. -/
def flag (f : Flag) (s : State) : Bool := getFlag s.status f

/-- `STATUS.<f> <- b`. -/
def setFlag (f : Flag) (b : Bool) (s : State) : State := { s with status := putFlag s.status f b }

/-- `STATUS.DONE, ERR_DIGIT, ERR_NORM, ERR_CMD, OUT_VALID, BRANCH <- 0`, bits 1 to 6: what the accept step does "before
it does anything else" (R30, R135). It is the only way, reset apart, in which a flag of an error class is cleared
(R158). -/
def clearFlags (s : State) : State := { s with status := s.status &&& 0x81#8 }

/-- Whether the core is busy (R30, R45). -/
def isBusy (s : State) : Bool := flag .busy s

end Sys2Proof.Machine
end

