-- ==== Sys2Proof/Machine/Ops.lean ====
section
/-!
DEFINITION. The named operations over the digit buffer, the register file and the sequencer's registers, and the three
architectural error classes (R151 to R158): what raising one does, and, beside it, what the spec has in place of a
return (`clearFlags` of `Sys2Proof.Machine.Flags`: "there is no return instruction because there is no handler", R158).
-/

namespace Sys2Proof.Machine

/-! ## The digit buffer (R23, R42) -/

/-- The symbol at index `i`, or `none` for an entry nothing has written. -/
def Memory.read : Memory → Nat → Option Symbol
  | [], _ => none
  | (j, b) :: m, i => if i = j then some b else Memory.read m i

/-- `DIG[i] <- b`, keeping the indices strictly rising. -/
def Memory.write : Memory → Nat → Symbol → Memory
  | [], i, b => [(i, b)]
  | (j, a) :: m, i, b =>
    if i < j then (i, b) :: (j, a) :: m
    else if i = j then (i, b) :: m
    else (j, a) :: Memory.write m i b

/-- Whether every index of `m` is above `lo`, in strictly rising order. -/
def Memory.risingAbove : Nat → Memory → Bool
  | _, [] => true
  | lo, (j, _) :: m => decide (lo < j) && Memory.risingAbove j m

/-- The canonical form: indices strictly rising. An unlisted entry reads as no symbol at all, so no listed entry can
equal what an unlisted one reads as. -/
def Memory.wf : Memory → Bool
  | [] => true
  | (j, _) :: m => Memory.risingAbove j m

/-! ## The register file (R13) -/

/-- What the file holds at `r`. `ONE` is no storage (R19) and has no entry here. -/
def RegFile.get (f : RegFile) : Reg → Content
  | .x => f.x
  | .y => f.y
  | .z => f.z
  | .z2 => f.z2
  | .z3 => f.z3
  | .r0 => f.r0
  | .r1 => f.r1
  | .r2 => f.r2
  | .r3 => f.r3
  | .t0 => f.t0
  | .ax => f.ax
  | .ay => f.ay
  | .xa => f.xa
  | .ya => f.ya
  | .one => .unwritten

/-- The file with `c` at `r`. `ONE` is hardwired and a write to it changes nothing (R19). -/
def RegFile.set (f : RegFile) (r : Reg) (c : Content) : RegFile :=
  match r with
  | .x => { f with x := c }
  | .y => { f with y := c }
  | .z => { f with z := c }
  | .z2 => { f with z2 := c }
  | .z3 => { f with z3 := c }
  | .r0 => { f with r0 := c }
  | .r1 => { f with r1 := c }
  | .r2 => { f with r2 := c }
  | .r3 => { f with r3 := c }
  | .t0 => { f with t0 := c }
  | .ax => { f with ax := c }
  | .ay => { f with ay := c }
  | .xa => { f with xa := c }
  | .ya => { f with ya := c }
  | .one => f

/-- `x[r] <- v`: the register becomes written (R11, R21). -/
def putReg (r : Reg) (v : Nat) (s : State) : State := { s with regs := s.regs.set r (.value v) }

/-- `x[R0], x[R1], x[R2], x[R3], x[T0] <- unwritten`, the invalidation at the entry of `DBL`, `ADD`, `AFF1` and `AFF0`
(R16). -/
def clearScratch (s : State) : State :=
  { s with
    regs := { s.regs with
      r0 := .unwritten, r1 := .unwritten, r2 := .unwritten, r3 := .unwritten, t0 := .unwritten } }

/-! ## The sequencer's registers -/

/-- `UNIT <- u`. -/
def setUnit (u : SeqUnit) (s : State) : State := { s with unit := u }

/-- `UPC <- n`. -/
def setUpc (n : Nat) (s : State) : State := { s with upc := n }

/-- `DPOS <- i`. -/
def setDpos (i : BitVec 16) (s : State) : State := { s with dpos := i }

/-- `LASTD <- c`. -/
def setLastd (c : Symbol) (s : State) : State := { s with lastd := c }

/-- `CUR <- c`. -/
def setCur (c : Symbol) (s : State) : State := { s with cur := c }

/-- `CMDR <- c`. -/
def setCmdr (c : Code) (s : State) : State := { s with cmdr := c }

/-- `emit(e)`: append event `e` to the trace (R34). -/
def emit (e : Event) (s : State) : State := { s with trace := s.trace ++ [e] }

/-- What the host's last transaction returned. -/
def answer (r : Reply) (s : State) : State := { s with reply := r }

/-- The finish step (R143): `STATUS.BUSY <- 0`, `STATUS.DONE <- 1`, `UNIT <- IDLE`, `UPC <- 0`. -/
def finish (s : State) : State :=
  setUpc 0 (setUnit .idle (setFlag .done true (setFlag .busy false s)))

/-- Entry to a microprogram that uses the scratch registers: they become unwritten, `UNIT <- u`, `UPC <- 0` (R16). -/
def enterPrimitive (u : SeqUnit) (s : State) : State := setUpc 0 (setUnit u (clearScratch s))

/-! ## The architectural error classes -/

/-- The three error classes (R151). -/
inductive ErrorClass where
  /-- MalformedScalarDigit (R152). -/
  | malformedScalarDigit
  /-- UnsupportedNormalizationBranch (R153). -/
  | unsupportedNormalizationBranch
  /-- IllegalCommand (R154). -/
  | illegalCommand
  deriving DecidableEq, Repr

/-- The flag of a class; "the code of each class in this hardware is the number of its `STATUS` bit" (R151). -/
def ErrorClass.theFlag : ErrorClass → Flag
  | .malformedScalarDigit => .errDigit
  | .unsupportedNormalizationBranch => .errNorm
  | .illegalCommand => .errCmd

/-- Raising an error class (R157): "there is no handler, no vector table, no vector base register, no saved state, no
mode change and no mask. The step that detects the condition sets the flag and goes on to the next step the sequencer
rules give (`FIN` for the driver, finish for the converter and for an illegal command)". `BUSY` is never set for an
illegal command (R141), so there the finish is `STATUS.DONE <- 1` alone. -/
def raiseError (e : ErrorClass) (s : State) : State :=
  match e with
  | .malformedScalarDigit => setUnit .fin (setFlag .errDigit true s)
  | .unsupportedNormalizationBranch => finish (setFlag .errNorm true s)
  | .illegalCommand => setFlag .done true (setFlag .errCmd true s)

/-- The reset event (R170): "replace the whole state by the reset state". The parameters stay, and so does what the
outside world does next. -/
def resetEvent (s : State) : State := { State.resetWith s.params with inputs := s.inputs }

end Sys2Proof.Machine
end

