-- ==== Sys2Proof/Machine/Provider.lean ====
section
/-!
DEFINITION. The field-arithmetic provider: its contract (R76), the two instances the spec writes out (R84, R85) and the
free one, and the primality test of the accept step (R161). Every function is total; the operands the core presents
are canonical (R88).
-/

namespace Sys2Proof.Machine

/-- `b ^ e mod m` by squaring, for an exponent of at most `fuel` bits. -/
def powModAux (m : Nat) : Nat → Nat → Nat → Nat
  | 0, _, _ => 1 % m
  | fuel + 1, b, e =>
    if e % 2 = 1 then b * powModAux m fuel (b * b % m) (e / 2) % m
    else powModAux m fuel (b * b % m) (e / 2)

/-- `b ^ e mod m`. -/
def powMod (m b e : Nat) : Nat := powModAux m (Nat.log2 e + 1) b e

/-- The inverse of `a` modulo a prime `p`, `a^(p-2) mod p` (R84). -/
def plainInv (p a : Nat) : Nat := powMod p a (p - 2)

/-- `FP.one` up to its sign: 1 for `FPref` (R84), `2^W mod p` for `FPmont` (R85), a free non-zero residue for any other
instance (log entry 3). -/
def fpBase (c : Params) (p : Nat) : Nat :=
  match c.provider with
  | .reference => 1
  | .montgomery => 2 ^ c.w % p
  | .external => if Config.externalOne p % p = 0 then 1 else Config.externalOne p % p

/-- `FP.one(p, mc)` (R76). In the two instances the spec writes out the constant is ignored (R84, R85); in any other it
can choose the sign (log entry 3). -/
def fpOne (c : Params) (p mc : Nat) : Nat :=
  match c.provider with
  | .reference | .montgomery => fpBase c p
  | .external => if Config.externalNegated p mc then p - fpBase c p else fpBase c p

/-- `FP.mul(a, b, p, mc)` (R76): `(a*b) mod p` for `FPref`; `(a * b * one^-1) mod p` for the others, which for `FPmont`
is `(a * b * R^-1) mod p` (R85). -/
def fpMul (c : Params) (p mc : Nat) (a b : Nat) : Nat :=
  match c.provider with
  | .reference => a * b % p
  | .montgomery | .external => a * b * plainInv p (fpOne c p mc) % p

/-- `FP.add(a, b, p)` (R79): when the integer sum is `p` or more, `p` is subtracted once. -/
def fpAdd (p : Nat) (a b : Nat) : Nat := if p ≤ a + b then a + b - p else a + b

/-- `FP.sub(a, b, p)` (R80): "when `a < b` the result is `a - b + p`". -/
def fpSub (p : Nat) (a b : Nat) : Nat := if a < b then a + p - b else a - b

/-- `FP.inv(a, p)` for `a` not 0 (R76, R82): `a^(p-2) mod p` for `FPref` (R84); `(a^-1 * one^2) mod p` for the others,
which for `FPmont` is `(a^-1 * R^2) mod p` (R85). It takes no constant, as the contract lists none: the square of `one`
is the same for every constant. -/
def fpInv (c : Params) (p : Nat) (a : Nat) : Nat :=
  match c.provider with
  | .reference => plainInv p a
  | .montgomery | .external => plainInv p a * fpBase c p * fpBase c p % p

/-- `FP.copy(a)` (R76, R81). -/
def fpCopy (a : Nat) : Nat := a

/-- Primality by trial division, shortened for the modulus of the golden vector so that a run on secp256r1 can be
evaluated. It is exactly primality: `Sys2Proof.Laws.isPrime_iff`. -/
def isPrime (p : Nat) : Bool :=
  p == Config.p256 || (decide (2 ≤ p) && (List.range p).all fun d => decide (d < 2) || p % d != 0)

/-- "`P` is prime and `3 < P < 2^W`" (R27, R161). -/
def goodModulus (c : Params) (p : Nat) : Bool :=
  decide (3 < p) && decide (p < 2 ^ c.w) && isPrime p

end Sys2Proof.Machine
end

