-- ==== Sys2Proof/Machine/Operands.lean ====
section
/-!
DEFINITION. The operand reads of a micro-operation and the reads of `P` and `MC`, each with the model faults R160 and
R161 give it, in the order R156 and R161 give them.
-/

namespace Sys2Proof.Machine

/-- `P`, or `UnwrittenRead(P)`: "`if P unwritten: raise UnwrittenRead(P)`" at the accept step (R161), and R160
wherever a step of the sequencer reads it. -/
def readModulus (s : State) : Except Fault Nat :=
  match s.p with
  | .unwritten => .error (.unwrittenRead .modulus)
  | .value p => .ok p

/-- `MC`, or `UnwrittenRead(MC)`: "`if MC unwritten: raise UnwrittenRead(MC)`" at the accept step (R161), and R160
wherever a step of the sequencer reads it, as each does "for the port" (R47, R84). -/
def readConstant (s : State) : Except Fault Nat :=
  match s.mc with
  | .unwritten => .error (.unwrittenRead .constant)
  | .value mc => .ok mc

/-- What `x[r]` names before it is checked. `ONE` "always returns `FP.one(P, MC)`" and "is never unwritten once `P` and
`MC` are written" (R19); every other register is its entry of `FREG` (R13, R22), and "reading an unwritten register is a
model fault, never a value" (R21; R77; R160; U7). DESIGN CHOICE, safe (log entry 14): no rule says which register
`UnwrittenRead` names when `ONE` is read with `P` or `MC` unwritten, which happens in no run; the model names `P`, and
where `P` is written `MC`, and reads both here, inside the operand read. -/
def registerValue (r : Reg) (s : State) : Except Fault Nat :=
  match r with
  | .one =>
    match readModulus s with
    | .error f => .error f
    | .ok p =>
      match readConstant s with
      | .error f => .error f
      | .ok mc => .ok (fpOne s.params p mc)
  | r =>
    match s.regs.get r with
    | .unwritten => .error (.unwrittenRead (.reg r))
    | .value v => .ok v

/-- `x[r]` as a micro-operation reads it: the unwritten check, then "`if x[r] >= P: raise NonCanonical(r)`" (R160,
R161). -/
def readReg (r : Reg) (s : State) : Except Fault Nat :=
  match registerValue r s with
  | .error f => .error f
  | .ok v =>
    match readModulus s with
    | .error f => .error f
    | .ok p => if p ≤ v then .error (.nonCanonical r) else .ok v

/-- The second operand: "`x[SB]` only if `OP` in {FMUL, FADD, FSUB}" (R77). A one-source request carries none. -/
def readSecond (r : Option Reg) (s : State) : Except Fault Nat :=
  match r with
  | none => .ok 0
  | some r => readReg r s

/-- The reply of the field port to the request `(op, a, b, p, mc)` (R47): `FP.mul`, `FP.add`, `FP.sub`, `FP.copy` or
`FP.inv` by R78 to R82. `FINV` of 0 raises `FinvZero` (R82, R162). -/
def fieldPort (c : Params) (k : OpKind) (a b : Nat) (p mc : Nat) : Except Fault Nat :=
  match k with
  | .mul => .ok (fpMul c p mc a b)
  | .add => .ok (fpAdd p a b)
  | .sub => .ok (fpSub p a b)
  | .copy => .ok (fpCopy a)
  | .inv => if a = 0 then .error .finvZero else .ok (fpInv c p a)

/-- The operands of a micro-operation and the result it gets over the field port (R77): read `SA`, read `SB`, then the
request with `P` and `MC` (R47). -/
def microResult (k : OpKind) (sa : Reg) (sb : Option Reg) (s : State) : Except Fault Nat :=
  match readReg sa s with
  | .error f => .error f
  | .ok a =>
    match readSecond sb s with
    | .error f => .error f
    | .ok b =>
      match readModulus s with
      | .error f => .error f
      | .ok p =>
        match readConstant s with
        | .error f => .error f
        | .ok mc => fieldPort s.params k a b p mc

end Sys2Proof.Machine
end

