-- ==== Sys2Proof/Machine/Commands.lean ====
section
/-!
DEFINITION. The host commands: the accept step (R135) with the checks of R161, one meaning per command code. A meaning
is the effect of the write to `CMD`; the run it starts is the steps of the sequencer that follow (R142, R145).
-/

namespace Sys2Proof.Machine

/-- The checks R161 makes at the accept step of a legal command, in its order: `P` written, `MC` written, `P` a prime
with `3 < P < 2^W`. -/
def checkModulus (s : State) : Option Fault :=
  match readModulus s with
  | .error f => some f
  | .ok p =>
    match readConstant s with
    | .error f => some f
    | .ok _ => if goodModulus s.params p then none else some (.badModulus p)

/-- The further check of `SMUL` and `KP`, after those: `LEN <= NDIG` (R161). -/
def checkDriver (s : State) : Option Fault :=
  match checkModulus s with
  | some f => some f
  | none => if s.params.ndig < s.len.toNat then some (.lenOutOfRange s.len) else none

/-- The common part of the accept step (R135): bits 1 to 6 of `STATUS` cleared, `CMDR <- c`. The host's write is
answered. -/
def takeCommand (c : Code) (s : State) : State := answer .done (setCmdr c (clearFlags s))

/-- The accept step of a legal command: the check, then `STATUS.BUSY <- 1` and the entry of its unit (R135). A write to
`CMD` while busy "is refused and changes nothing" (R45, R135). -/
def accept (c : Code) (check : State → Option Fault) (enter : State → State) (s : State) : Result :=
  if isBusy s then .next (answer .refused s)
  else
    match check (takeCommand c s) with
    | some f => .fault f
    | none => .next (enter (setFlag .busy true (takeCommand c s)))

/-- Command `DBL`, code 0x01 (R135, R136). -/
def execCmdDbl (s : State) : Result := accept 0x01#8 checkModulus (enterPrimitive .dbl) s

/-- Command `ADD`, code 0x02 (R135, R137). -/
def execCmdAdd (s : State) : Result := accept 0x02#8 checkModulus (enterPrimitive .add) s

/-- Command `SMUL`, code 0x03 (R135, R138). -/
def execCmdSmul (s : State) : Result := accept 0x03#8 checkDriver (fun t => setUpc 0 (setUnit .init t)) s

/-- Command `AFF`, code 0x04 (R135, R139). -/
def execCmdAff (s : State) : Result := accept 0x04#8 checkModulus (setUnit .affsel) s

/-- Command `KP`, code 0x05: "the same as SMUL" (R135, R140). -/
def execCmdKp (s : State) : Result := accept 0x05#8 checkDriver (fun t => setUpc 0 (setUnit .init t)) s

/-- An illegal code: `STATUS.ERR_CMD <- 1`, `STATUS.DONE <- 1`, nothing runs and no register is read (R135, R141). -/
def execCmdIllegal (code : Code) (s : State) : Result :=
  if isBusy s then .next (answer .refused s)
  else .next (raiseError .illegalCommand (takeCommand code s))

end Sys2Proof.Machine
end

