-- ==== Sys2Proof/Machine/Sequence.lean ====
section
/-!
DEFINITION. The micro-operation step (R77) and the transition at the end of a microprogram (R142), shared by the five
micro-operation types and the 57 ROM slots.
-/

namespace Sys2Proof.Machine

/-- After the last word of `ROM.<UNIT>` (R142), with `UPC` already 0. -/
def endTransition (s : State) : State :=
  match s.unit with
  | .init => setUnit .fetch (setDpos 1#16 s)
  | .dbl =>
    if s.cmdr = 0x01#8 then finish s
    else if s.cur = 0x31#8 then enterPrimitive .add s
    else setUnit .fetch (setDpos (s.dpos + 1#16) s)
  | .add =>
    if s.cmdr = 0x02#8 then finish s
    else setUnit .fetch (setDpos (s.dpos + 1#16) s)
  | .aff1 => finish (setFlag .branch true (setFlag .outValid true s))
  | .aff0 => finish (setFlag .branch false (setFlag .outValid true s))
  | .idle | .fetch | .fin | .affsel => s

/-- `UPC <- UPC + 1`, and after the last slot `UPC <- 0` and the end-of-microprogram transition (R77, R142). -/
def advance (s : State) : State :=
  if s.upc + 1 = romLength s.unit then endTransition (setUpc 0 s) else setUpc (s.upc + 1) s

/-- `x[DST] <- c`, the event, and the advance of `UPC` (R77). -/
def retire (k : OpKind) (dst sa : Reg) (sb : Option Reg) (c : Nat) (s : State) : State :=
  advance (emit { unit := s.unit, slot := s.upc + 1, op := k, dst := dst, sa := sa, sb := sb } (putReg dst c s))

/-- One micro-operation step (R77) in the unit and at the `UPC` the state is in: the legality check, the operand reads,
the field port, the write. "Both operands are read before the destination is written" (R83). -/
def microStep (k : OpKind) (dst sa : Reg) (sb : Option Reg) (s : State) : Result :=
  if dst.legalDst then
    match microResult k sa sb s with
    | .error f => .fault f
    | .ok c => .next (retire k dst sa sb c s)
  else .fault (.illegalMicroOp (microWord k dst sa sb))

/-- The word at index `n` of `ROM.<u>`, run at its own slot. The sequencer fetches that word only when `UNIT = u` and
`UPC = n` (R43), and there setting the two changes nothing. -/
def slotStep (u : SeqUnit) (n : Nat) (k : OpKind) (dst sa : Reg) (sb : Option Reg) (s : State) : Result :=
  microStep k dst sa sb (setUpc n (setUnit u s))

end Sys2Proof.Machine
end

