-- ==== Sys2Proof/Machine/Micro.lean ====
section
/-!
DEFINITION. The meanings of the five field micro-operations (R78 to R82) and of a reserved operation code (R61). Each
runs in the unit and at the `UPC` the state is in.
-/

namespace Sys2Proof.Machine

/-- `FMUL dst, sa, sb`: `x[DST] <- FP.mul(x[SA], x[SB], P, MC)` (R78). -/
def execFmul (dst sa sb : Reg) (s : State) : Result := microStep .mul dst sa (some sb) s

/-- `FADD dst, sa, sb`: `x[DST] <- FP.add(x[SA], x[SB], P)` (R79). -/
def execFadd (dst sa sb : Reg) (s : State) : Result := microStep .add dst sa (some sb) s

/-- `FSUB dst, sa, sb`: `x[DST] <- FP.sub(x[SA], x[SB], P)`, "the first source is the minuend" (R80). -/
def execFsub (dst sa sb : Reg) (s : State) : Result := microStep .sub dst sa (some sb) s

/-- `FCPY dst, sa`: `x[DST] <- FP.copy(x[SA])` (R81). -/
def execFcpy (dst sa : Reg) (s : State) : Result := microStep .copy dst sa none s

/-- `FINV dst, sa`: `raise FinvZero` when `x[SA] = 0`, otherwise `x[DST] <- FP.inv(x[SA], P)` (R82). -/
def execFinv (dst sa : Reg) (s : State) : Result := microStep .inv dst sa none s

/-- A reserved operation code: the model fault `IllegalMicroOp(w)` on every state (R61, R161; U15 `fault`). -/
def execReservedOp (word : MicroWord) (_s : State) : Result := .fault (.illegalMicroOp word)

end Sys2Proof.Machine
end

