-- ==== Sys2Proof/Machine/RomAdd.lean ====
section
/-!
DEFINITION. The meanings of the words of `ROM.ADD`, the point adder (R99), each at its own slot.
-/

namespace Sys2Proof.Machine

/-- Slot 1 of `ROM.ADD`, `FMUL R0, AX, Z2` (R99). -/
def execRomAdd1 (s : State) : Result := slotStep .add 0 .mul .r0 .ax (some .z2) s

/-- Slot 2 of `ROM.ADD`, `FMUL R1, AY, Z3` (R99). -/
def execRomAdd2 (s : State) : Result := slotStep .add 1 .mul .r1 .ay (some .z3) s

/-- Slot 3 of `ROM.ADD`, `FSUB R0, R0, X` (R99). -/
def execRomAdd3 (s : State) : Result := slotStep .add 2 .sub .r0 .r0 (some .x) s

/-- Slot 4 of `ROM.ADD`, `FCPY T0, R1` (R99). -/
def execRomAdd4 (s : State) : Result := slotStep .add 3 .copy .t0 .r1 none s

/-- Slot 5 of `ROM.ADD`, `FADD R2, Y, Y` (R99). -/
def execRomAdd5 (s : State) : Result := slotStep .add 4 .add .r2 .y (some .y) s

/-- Slot 6 of `ROM.ADD`, `FMUL R3, R0, R0` (R99). -/
def execRomAdd6 (s : State) : Result := slotStep .add 5 .mul .r3 .r0 (some .r0) s

/-- Slot 7 of `ROM.ADD`, `FMUL Z, Z, R0` (R99). -/
def execRomAdd7 (s : State) : Result := slotStep .add 6 .mul .z .z (some .r0) s

/-- Slot 8 of `ROM.ADD`, `FMUL R2, R0, R3` (R99). -/
def execRomAdd8 (s : State) : Result := slotStep .add 7 .mul .r2 .r0 (some .r3) s

/-- Slot 9 of `ROM.ADD`, `FMUL X, X, R3` (R99). -/
def execRomAdd9 (s : State) : Result := slotStep .add 8 .mul .x .x (some .r3) s

/-- Slot 10 of `ROM.ADD`, `FMUL Z2, Z, Z` (R99). -/
def execRomAdd10 (s : State) : Result := slotStep .add 9 .mul .z2 .z (some .z) s

/-- Slot 11 of `ROM.ADD`, `FADD R1, X, X` (R99). -/
def execRomAdd11 (s : State) : Result := slotStep .add 10 .add .r1 .x (some .x) s

/-- Slot 12 of `ROM.ADD`, `FADD R0, R2, R1` (R99). -/
def execRomAdd12 (s : State) : Result := slotStep .add 11 .add .r0 .r2 (some .r1) s

/-- Slot 13 of `ROM.ADD`, `FMUL R1, Y, R2` (R99). -/
def execRomAdd13 (s : State) : Result := slotStep .add 12 .mul .r1 .y (some .r2) s

/-- Slot 14 of `ROM.ADD`, `FSUB T0, T0, Y` (R99). -/
def execRomAdd14 (s : State) : Result := slotStep .add 13 .sub .t0 .t0 (some .y) s

/-- Slot 15 of `ROM.ADD`, `FMUL R2, T0, T0` (R99). -/
def execRomAdd15 (s : State) : Result := slotStep .add 14 .mul .r2 .t0 (some .t0) s

/-- Slot 16 of `ROM.ADD`, `FSUB R3, R2, R0` (R99). -/
def execRomAdd16 (s : State) : Result := slotStep .add 15 .sub .r3 .r2 (some .r0) s

/-- Slot 17 of `ROM.ADD`, `FSUB X, X, R3` (R99). -/
def execRomAdd17 (s : State) : Result := slotStep .add 16 .sub .x .x (some .r3) s

/-- Slot 18 of `ROM.ADD`, `FMUL R0, T0, X` (R99). -/
def execRomAdd18 (s : State) : Result := slotStep .add 17 .mul .r0 .t0 (some .x) s

/-- Slot 19 of `ROM.ADD`, `FSUB Y, R0, R1` (R99). -/
def execRomAdd19 (s : State) : Result := slotStep .add 18 .sub .y .r0 (some .r1) s

/-- Slot 20 of `ROM.ADD`, `FMUL Z3, Z, Z2` (R99). -/
def execRomAdd20 (s : State) : Result := slotStep .add 19 .mul .z3 .z (some .z2) s

/-- Slot 21 of `ROM.ADD`, `FCPY X, R3` (R99). -/
def execRomAdd21 (s : State) : Result := slotStep .add 20 .copy .x .r3 none s

end Sys2Proof.Machine
end

