-- ==== Sys2Proof/Machine/RomAff.lean ====
section
/-!
DEFINITION. The meanings of the words of `ROM.AFF1` (R125) and `ROM.AFF0` (R126), the projective-to-affine
converter, each at its own slot.
-/

namespace Sys2Proof.Machine

/-- Slot 1 of `ROM.AFF1`, `FMUL R0, Z, Z` (R125). -/
def execRomAffOne1 (s : State) : Result := slotStep .aff1 0 .mul .r0 .z (some .z) s

/-- Slot 2 of `ROM.AFF1`, `FINV R1, R0` (R125). -/
def execRomAffOne2 (s : State) : Result := slotStep .aff1 1 .inv .r1 .r0 none s

/-- Slot 3 of `ROM.AFF1`, `FMUL XA, X, R1` (R125). -/
def execRomAffOne3 (s : State) : Result := slotStep .aff1 2 .mul .xa .x (some .r1) s

/-- Slot 4 of `ROM.AFF1`, `FMUL R0, Z, R0` (R125). -/
def execRomAffOne4 (s : State) : Result := slotStep .aff1 3 .mul .r0 .z (some .r0) s

/-- Slot 5 of `ROM.AFF1`, `FINV R1, R0` (R125). -/
def execRomAffOne5 (s : State) : Result := slotStep .aff1 4 .inv .r1 .r0 none s

/-- Slot 6 of `ROM.AFF1`, `FMUL YA, Y, R1` (R125). -/
def execRomAffOne6 (s : State) : Result := slotStep .aff1 5 .mul .ya .y (some .r1) s

/-- Slot 1 of `ROM.AFF0`, `FINV R1, Z2` (R126). -/
def execRomAffZero1 (s : State) : Result := slotStep .aff0 0 .inv .r1 .z2 none s

/-- Slot 2 of `ROM.AFF0`, `FMUL XA, X, R1` (R126). -/
def execRomAffZero2 (s : State) : Result := slotStep .aff0 1 .mul .xa .x (some .r1) s

/-- Slot 3 of `ROM.AFF0`, `FINV R1, Z3` (R126). -/
def execRomAffZero3 (s : State) : Result := slotStep .aff0 2 .inv .r1 .z3 none s

/-- Slot 4 of `ROM.AFF0`, `FMUL YA, Y, R1` (R126). -/
def execRomAffZero4 (s : State) : Result := slotStep .aff0 3 .mul .ya .y (some .r1) s

end Sys2Proof.Machine
end

