-- ==== Sys2Proof/Machine/RomDbl.lean ====
section
/-!
DEFINITION. The meanings of the words of `ROM.DBL`, the point doubler (R91), each at its own slot.
-/

namespace Sys2Proof.Machine

/-- Slot 1 of `ROM.DBL`, `FMUL R0, X, X` (R91). -/
def execRomDbl1 (s : State) : Result := slotStep .dbl 0 .mul .r0 .x (some .x) s

/-- Slot 2 of `ROM.DBL`, `FMUL R1, Z2, Z2` (R91). -/
def execRomDbl2 (s : State) : Result := slotStep .dbl 1 .mul .r1 .z2 (some .z2) s

/-- Slot 3 of `ROM.DBL`, `FSUB R0, R0, R1` (R91). -/
def execRomDbl3 (s : State) : Result := slotStep .dbl 2 .sub .r0 .r0 (some .r1) s

/-- Slot 4 of `ROM.DBL`, `FCPY T0, R1` (R91). -/
def execRomDbl4 (s : State) : Result := slotStep .dbl 3 .copy .t0 .r1 none s

/-- Slot 5 of `ROM.DBL`, `FADD R2, Y, Y` (R91). -/
def execRomDbl5 (s : State) : Result := slotStep .dbl 4 .add .r2 .y (some .y) s

/-- Slot 6 of `ROM.DBL`, `FMUL R3, R2, R2` (R91). -/
def execRomDbl6 (s : State) : Result := slotStep .dbl 5 .mul .r3 .r2 (some .r2) s

/-- Slot 7 of `ROM.DBL`, `FMUL Z, Z, R2` (R91). -/
def execRomDbl7 (s : State) : Result := slotStep .dbl 6 .mul .z .z (some .r2) s

/-- Slot 8 of `ROM.DBL`, `FMUL R2, R2, Y` (R91). -/
def execRomDbl8 (s : State) : Result := slotStep .dbl 7 .mul .r2 .r2 (some .y) s

/-- Slot 9 of `ROM.DBL`, `FMUL X, X, R3` (R91). -/
def execRomDbl9 (s : State) : Result := slotStep .dbl 8 .mul .x .x (some .r3) s

/-- Slot 10 of `ROM.DBL`, `FMUL Z2, Z, Z` (R91). -/
def execRomDbl10 (s : State) : Result := slotStep .dbl 9 .mul .z2 .z (some .z) s

/-- Slot 11 of `ROM.DBL`, `FADD R1, R0, R0` (R91). -/
def execRomDbl11 (s : State) : Result := slotStep .dbl 10 .add .r1 .r0 (some .r0) s

/-- Slot 12 of `ROM.DBL`, `FADD R0, R1, R0` (R91). -/
def execRomDbl12 (s : State) : Result := slotStep .dbl 11 .add .r0 .r1 (some .r0) s

/-- Slot 13 of `ROM.DBL`, `FMUL R1, R0, R0` (R91). -/
def execRomDbl13 (s : State) : Result := slotStep .dbl 12 .mul .r1 .r0 (some .r0) s

/-- Slot 14 of `ROM.DBL`, `FSUB T0, R1, X` (R91). -/
def execRomDbl14 (s : State) : Result := slotStep .dbl 13 .sub .t0 .r1 (some .x) s

/-- Slot 15 of `ROM.DBL`, `FMUL R2, R2, R3` (R91). -/
def execRomDbl15 (s : State) : Result := slotStep .dbl 14 .mul .r2 .r2 (some .r3) s

/-- Slot 16 of `ROM.DBL`, `FSUB R3, T0, X` (R91). -/
def execRomDbl16 (s : State) : Result := slotStep .dbl 15 .sub .r3 .t0 (some .x) s

/-- Slot 17 of `ROM.DBL`, `FSUB X, X, R3` (R91). -/
def execRomDbl17 (s : State) : Result := slotStep .dbl 16 .sub .x .x (some .r3) s

/-- Slot 18 of `ROM.DBL`, `FMUL R0, R0, X` (R91). -/
def execRomDbl18 (s : State) : Result := slotStep .dbl 17 .mul .r0 .r0 (some .x) s

/-- Slot 19 of `ROM.DBL`, `FSUB Y, R0, R2` (R91). -/
def execRomDbl19 (s : State) : Result := slotStep .dbl 18 .sub .y .r0 (some .r2) s

/-- Slot 20 of `ROM.DBL`, `FMUL Z3, Z, Z2` (R91). -/
def execRomDbl20 (s : State) : Result := slotStep .dbl 19 .mul .z3 .z (some .z2) s

/-- Slot 21 of `ROM.DBL`, `FCPY X, R3` (R91). -/
def execRomDbl21 (s : State) : Result := slotStep .dbl 20 .copy .x .r3 none s

end Sys2Proof.Machine
end

