-- ==== Sys2Proof/Machine/RomInit.lean ====
section
/-!
DEFINITION. The meanings of the words of `ROM.INIT`, the lifting of the base point (R109), each at its own slot.
-/

namespace Sys2Proof.Machine

/-- Slot 1 of `ROM.INIT`, `FCPY X, AX` (R109). -/
def execRomInit1 (s : State) : Result := slotStep .init 0 .copy .x .ax none s

/-- Slot 2 of `ROM.INIT`, `FCPY Y, AY` (R109). -/
def execRomInit2 (s : State) : Result := slotStep .init 1 .copy .y .ay none s

/-- Slot 3 of `ROM.INIT`, `FCPY Z, ONE` (R109). -/
def execRomInit3 (s : State) : Result := slotStep .init 2 .copy .z .one none s

/-- Slot 4 of `ROM.INIT`, `FCPY Z2, ONE` (R109). -/
def execRomInit4 (s : State) : Result := slotStep .init 3 .copy .z2 .one none s

/-- Slot 5 of `ROM.INIT`, `FCPY Z3, ONE` (R109). -/
def execRomInit5 (s : State) : Result := slotStep .init 4 .copy .z3 .one none s

end Sys2Proof.Machine
end

