-- ==== Sys2Proof/Machine/Symbols.lean ====
section
/-!
DEFINITION. The meanings of the digit symbols: what the fetch step does with the symbol it has read (R111). The
micro-operations that a digit stands for are the steps that follow, and `CUR` tells the end of `ROM.DBL` which digit it
was (R112, R113, R142).
-/

namespace Sys2Proof.Machine

/-- Digit `'0'`: the doubling starts (R111, R112). -/
def execSymZero (s : State) : Result := .next (enterPrimitive .dbl (setCur 0x30#8 s))

/-- Digit `'1'`: the doubling starts; the addition follows it (R111, R113). -/
def execSymOne (s : State) : Result := .next (enterPrimitive .dbl (setCur 0x31#8 s))

/-- A malformed symbol: `CUR` takes it, error class MalformedScalarDigit, no field operation, `DPOS` stays (R111,
R114). -/
def execSymMalformed (symbol : Symbol) (s : State) : Result :=
  .next (raiseError .malformedScalarDigit (setCur symbol s))

end Sys2Proof.Machine
end

