-- ==== Sys2Proof/Machine/Dispatch.lean ====
section
/-!
DEFINITION. One arm per constructor of Instr, each a direct call of that row's meaning.
-/

namespace Sys2Proof.Machine

def exec (i : Instr) (s : State) : Host.Outcome State Fault Refusal :=
  match i with
  | .fmul dst sa sb => Sys2Proof.Machine.execFmul dst sa sb s
  | .fadd dst sa sb => Sys2Proof.Machine.execFadd dst sa sb s
  | .fsub dst sa sb => Sys2Proof.Machine.execFsub dst sa sb s
  | .fcpy dst sa => Sys2Proof.Machine.execFcpy dst sa s
  | .finv dst sa => Sys2Proof.Machine.execFinv dst sa s
  | .reservedOp word => Sys2Proof.Machine.execReservedOp word s
  | .romInit1 => Sys2Proof.Machine.execRomInit1 s
  | .romInit2 => Sys2Proof.Machine.execRomInit2 s
  | .romInit3 => Sys2Proof.Machine.execRomInit3 s
  | .romInit4 => Sys2Proof.Machine.execRomInit4 s
  | .romInit5 => Sys2Proof.Machine.execRomInit5 s
  | .romDbl1 => Sys2Proof.Machine.execRomDbl1 s
  | .romDbl2 => Sys2Proof.Machine.execRomDbl2 s
  | .romDbl3 => Sys2Proof.Machine.execRomDbl3 s
  | .romDbl4 => Sys2Proof.Machine.execRomDbl4 s
  | .romDbl5 => Sys2Proof.Machine.execRomDbl5 s
  | .romDbl6 => Sys2Proof.Machine.execRomDbl6 s
  | .romDbl7 => Sys2Proof.Machine.execRomDbl7 s
  | .romDbl8 => Sys2Proof.Machine.execRomDbl8 s
  | .romDbl9 => Sys2Proof.Machine.execRomDbl9 s
  | .romDbl10 => Sys2Proof.Machine.execRomDbl10 s
  | .romDbl11 => Sys2Proof.Machine.execRomDbl11 s
  | .romDbl12 => Sys2Proof.Machine.execRomDbl12 s
  | .romDbl13 => Sys2Proof.Machine.execRomDbl13 s
  | .romDbl14 => Sys2Proof.Machine.execRomDbl14 s
  | .romDbl15 => Sys2Proof.Machine.execRomDbl15 s
  | .romDbl16 => Sys2Proof.Machine.execRomDbl16 s
  | .romDbl17 => Sys2Proof.Machine.execRomDbl17 s
  | .romDbl18 => Sys2Proof.Machine.execRomDbl18 s
  | .romDbl19 => Sys2Proof.Machine.execRomDbl19 s
  | .romDbl20 => Sys2Proof.Machine.execRomDbl20 s
  | .romDbl21 => Sys2Proof.Machine.execRomDbl21 s
  | .romAdd1 => Sys2Proof.Machine.execRomAdd1 s
  | .romAdd2 => Sys2Proof.Machine.execRomAdd2 s
  | .romAdd3 => Sys2Proof.Machine.execRomAdd3 s
  | .romAdd4 => Sys2Proof.Machine.execRomAdd4 s
  | .romAdd5 => Sys2Proof.Machine.execRomAdd5 s
  | .romAdd6 => Sys2Proof.Machine.execRomAdd6 s
  | .romAdd7 => Sys2Proof.Machine.execRomAdd7 s
  | .romAdd8 => Sys2Proof.Machine.execRomAdd8 s
  | .romAdd9 => Sys2Proof.Machine.execRomAdd9 s
  | .romAdd10 => Sys2Proof.Machine.execRomAdd10 s
  | .romAdd11 => Sys2Proof.Machine.execRomAdd11 s
  | .romAdd12 => Sys2Proof.Machine.execRomAdd12 s
  | .romAdd13 => Sys2Proof.Machine.execRomAdd13 s
  | .romAdd14 => Sys2Proof.Machine.execRomAdd14 s
  | .romAdd15 => Sys2Proof.Machine.execRomAdd15 s
  | .romAdd16 => Sys2Proof.Machine.execRomAdd16 s
  | .romAdd17 => Sys2Proof.Machine.execRomAdd17 s
  | .romAdd18 => Sys2Proof.Machine.execRomAdd18 s
  | .romAdd19 => Sys2Proof.Machine.execRomAdd19 s
  | .romAdd20 => Sys2Proof.Machine.execRomAdd20 s
  | .romAdd21 => Sys2Proof.Machine.execRomAdd21 s
  | .romAffOne1 => Sys2Proof.Machine.execRomAffOne1 s
  | .romAffOne2 => Sys2Proof.Machine.execRomAffOne2 s
  | .romAffOne3 => Sys2Proof.Machine.execRomAffOne3 s
  | .romAffOne4 => Sys2Proof.Machine.execRomAffOne4 s
  | .romAffOne5 => Sys2Proof.Machine.execRomAffOne5 s
  | .romAffOne6 => Sys2Proof.Machine.execRomAffOne6 s
  | .romAffZero1 => Sys2Proof.Machine.execRomAffZero1 s
  | .romAffZero2 => Sys2Proof.Machine.execRomAffZero2 s
  | .romAffZero3 => Sys2Proof.Machine.execRomAffZero3 s
  | .romAffZero4 => Sys2Proof.Machine.execRomAffZero4 s
  | .cmdDbl => Sys2Proof.Machine.execCmdDbl s
  | .cmdAdd => Sys2Proof.Machine.execCmdAdd s
  | .cmdSmul => Sys2Proof.Machine.execCmdSmul s
  | .cmdAff => Sys2Proof.Machine.execCmdAff s
  | .cmdKp => Sys2Proof.Machine.execCmdKp s
  | .cmdIllegal code => Sys2Proof.Machine.execCmdIllegal code s
  | .symZero => Sys2Proof.Machine.execSymZero s
  | .symOne => Sys2Proof.Machine.execSymOne s
  | .symMalformed symbol => Sys2Proof.Machine.execSymMalformed symbol s

end Sys2Proof.Machine
end

