-- ==== Sys2Proof/Machine/HostPort.lean ====
section
/-!
DEFINITION. The host register space `HREG` and the two host transactions on it (R44 to R46, R163).
-/

namespace Sys2Proof.Machine

/-- The registers `HREG` maps (R44). -/
inductive HostReg where
  | cmd | status | len | dpos | lastd
  | field (r : Reg)
  | p | mc
  | dig (j : Nat)
  deriving DecidableEq, Repr

/-- "A field register is at `ha = 0x0010 + index`" (R44); the scratch registers, `ONE` and index 15 are not mapped. -/
def hostField (index : Nat) : Option HostReg :=
  match index with
  | 0 => some (.field .x)
  | 1 => some (.field .y)
  | 2 => some (.field .z)
  | 3 => some (.field .z2)
  | 4 => some (.field .z3)
  | 10 => some (.field .ax)
  | 11 => some (.field .ay)
  | 12 => some (.field .xa)
  | 13 => some (.field .ya)
  | _ => none

/-- The map of R44; `none` for an index that is not mapped (R51). -/
def hostReg (c : Params) (ha : Nat) : Option HostReg :=
  if ha = 0x0000 then some .cmd
  else if ha = 0x0001 then some .status
  else if ha = 0x0002 then some .len
  else if ha = 0x0003 then some .dpos
  else if ha = 0x0004 then some .lastd
  else if ha = 0x0020 then some .p
  else if ha = 0x0021 then some .mc
  else if 0x0010 ≤ ha ∧ ha < 0x0020 then hostField (ha - 0x0010)
  else if 0x1000 ≤ ha ∧ ha < 0x1000 + c.ndig then some (.dig (ha - 0x1000))
  else none

/-- The width of a register in bits (R44). -/
def hostWidth (c : Params) : HostReg → Nat
  | .cmd | .status | .lastd | .dig _ => 8
  | .len | .dpos => 16
  | .field _ | .p | .mc => c.w

/-- Whether the host may write a register (R44): not `STATUS`, `DPOS`, `XA`, `YA`. -/
def hostWritable : HostReg → Bool
  | .status | .dpos | .field .xa | .field .ya => false
  | _ => true

/-- What a field register, `P` or `MC` shows to a host read: nothing while unwritten (R46). -/
def Content.shown : Content → Option Nat
  | .unwritten => none
  | .value v => some v

/-- What a register holds, as an unsigned integer; `none` when it is unwritten. `CMD` is no storage and reads 0 (R29,
R36). -/
def hostValue (r : HostReg) (s : State) : Option Nat :=
  match r with
  | .cmd => some 0
  | .status => some s.status.toNat
  | .len => some s.len.toNat
  | .dpos => some s.dpos.toNat
  | .lastd => some s.lastd.toNat
  | .field r => (s.regs.get r).shown
  | .p => s.p.shown
  | .mc => s.mc.shown
  | .dig j => (Memory.read s.dig j).map BitVec.toNat

/-- "A host write to a writable register replaces its value and has no other effect" (R46). A write to `CMD` is a
command and is not made here (R135). -/
def hostStore (r : HostReg) (v : Nat) (s : State) : State :=
  match r with
  | .len => { s with len := BitVec.ofNat 16 v }
  | .lastd => setLastd (BitVec.ofNat 8 v) s
  | .field r => putReg r v s
  | .p => { s with p := .value v }
  | .mc => { s with mc := .value v }
  | .dig j => { s with dig := Memory.write s.dig j (BitVec.ofNat 8 v) }
  | .cmd | .status | .dpos => s

/-- A refused transaction: "the state does not change, and a read returns no value" (R163). -/
def refuse (s : State) : State := answer .refused s

/-- `HostRead(ha)` (R44 to R46): while busy only `STATUS` may be read; an index that is not mapped and an unwritten
register are refused. -/
def hostRead (ha : Nat) (s : State) : State :=
  match hostReg s.params ha with
  | none => refuse s
  | some r =>
    if isBusy s && r != .status then refuse s
    else
      match hostValue r s with
      | none => refuse s
      | some v => answer (.value v) s

/-- Whether `HostWrite(ha, v)` is a legal transaction (R44 to R46, R163): not busy, mapped, writable, and the value no
wider than the register. -/
def hostWriteLegal (ha v : Nat) (s : State) : Bool :=
  match hostReg s.params ha with
  | none => false
  | some r => !isBusy s && hostWritable r && decide (v < 2 ^ hostWidth s.params r)

/-- `HostWrite(ha, v)` on a register other than `CMD`. -/
def hostWrite (ha v : Nat) (s : State) : State :=
  if hostWriteLegal ha v s then
    match hostReg s.params ha with
    | none => refuse s
    | some r => answer .done (hostStore r v s)
  else refuse s

end Sys2Proof.Machine
end

