-- ==== Sys2Proof/Machine/Place.lean ====
section
/-!
DEFINITION. Placing an encoded item where the machine reads its next one (log entry 7). The core does not fetch at one
program counter: a command comes from the host, a symbol from `DIG` at `DPOS`, a micro-operation word from the ROM that
`UNIT` names at `UPC`.
-/

namespace Sys2Proof.Machine

/-- Put the sequencer in unit `u`, busy, with the coming step its own. -/
def selectUnit (u : SeqUnit) (s : State) : State :=
  { setUnit u (setFlag .busy true s) with inputs := .tick :: s.inputs }

/-- The index at which a symbol is placed: `DPOS` where it is an index of `DIG` the driver inspects, that is from 1 up
(R110, R111), else 1. -/
def placeIndex (s : State) : BitVec 16 :=
  if 1 ≤ s.dpos.toNat ∧ s.dpos.toNat < s.params.ndig then s.dpos else 1#16

/-- The state whose next step reads the item `it`: a slot's word is selected by `UNIT` and `UPC`; a word no ROM holds is
injected at the first slot of `ROM.DBL`; a symbol is stored in `DIG` at `DPOS` with `LEN` above it; a code is written to
`CMD` of an idle core. -/
def placeItem (it : Item) (s : State) : State :=
  match it with
  | .slot u k _ => { selectUnit u s with upc := k, injected := none }
  | .word w => { selectUnit .dbl s with upc := 0, injected := some w }
  | .symbol c =>
    { selectUnit .fetch s with
      dpos := placeIndex s
      len := if s.len.toNat ≤ (placeIndex s).toNat then placeIndex s + 1#16 else s.len
      dig := Memory.write s.dig (placeIndex s).toNat c }
  | .command c =>
    { setUpc 0 (setUnit .idle (setFlag .busy false s)) with inputs := .write 0x0000 c.toNat :: s.inputs }

/-- `placeItem` of the item a table word stands for; a number that is no word of its width changes nothing. -/
def placeWord (s : State) (nbits w : Nat) : State :=
  match tableItem nbits w with
  | none => s
  | some it => placeItem it s

end Sys2Proof.Machine
end

