-- ==== Sys2Proof/Machine/Sequencer.lean ====
section
/-!
DEFINITION. What one step of the machine is about: which encoded item it decodes, if any (`nextItem`), and what it does
when it decodes none (`controlStep`). Together they are the sequencer's step function (R142) under the schedule of the
host's transactions (R45, R146, R170; log entry 5).
-/

namespace Sys2Proof.Machine

/-- The encoded item the sequencer reads in its next step, with the state the item then runs in: the word of the ROM
that `UNIT` names at `UPC` (R43, R77), or the symbol at `DPOS` when there is a digit left (R42, R111). -/
def sequencerItem (s : State) : Option (Item × State) :=
  match s.unit with
  | .init | .dbl | .add | .aff1 | .aff0 =>
    match s.injected with
    | some w => some (.word w, { s with injected := none })
    | none =>
      match romWord s.unit s.upc with
      | some w => some (.slot s.unit s.upc w, s)
      | none => none
  | .fetch =>
    if s.dpos.toNat < s.len.toNat ∧ s.dpos.toNat < s.params.ndig then
      match Memory.read s.dig s.dpos.toNat with
      | some c => some (.symbol c, s)
      | none => none
    else none
  | .idle | .fin | .affsel => none

/-- The encoded item of the machine's next step. An accepted `HostWrite(0x0000, c)` presents the code `c` (R135). -/
def nextItem (s : State) : Option (Item × State) :=
  match s.inputs with
  | [] => sequencerItem s
  | .tick :: rest => sequencerItem { s with inputs := rest }
  | .waitDone :: _ => if flag .done s then none else sequencerItem s
  | .write ha v :: rest =>
    if ha = 0x0000 ∧ hostWriteLegal ha v s then
      some (.command (BitVec.ofNat 8 v), { s with inputs := rest })
    else none
  | .read _ :: _ | .reset :: _ => none

/-- `MemRead(DIG, i, 1)` by the sequencer (R42): "a read of an unwritten entry is the model fault
`UnwrittenRead`" (R42, R160). -/
def readDigit (i : Nat) (s : State) : Except Fault Symbol :=
  if i < s.params.ndig then
    match Memory.read s.dig i with
    | some c => .ok c
    | none => .error (.unwrittenRead (.dig i))
  else .error (.noDigEntry i)

/-- The fetch step (R111) when it decodes no symbol: no digit left, or a read that faults. -/
def fetchControl (s : State) : Result :=
  if s.len.toNat ≤ s.dpos.toNat then .next (setUnit .fin s)
  else
    match readDigit s.dpos.toNat s with
    | .error f => .fault f
    | .ok _ => .next s

/-- Where the `FIN` step goes after the latch (R142, R148): to the converter under `KP`, unless a malformed symbol
stopped the loop and the policy is `ABORT`; otherwise finish. -/
def afterFin (s : State) : State :=
  if s.cmdr = 0x05#8 ∧ (flag .errDigit s = false ∨ s.params.policy = .normalizePartial) then setUnit .affsel s
  else finish s

/-- The `FIN` step (R115): `LASTD <- DIG[LEN-1]` when `LEN >= 1`, `LASTD <- 0x00` when `LEN = 0`. -/
def finStep (s : State) : Result :=
  if s.len = 0#16 then .next (afterFin (setLastd 0x00#8 s))
  else
    match readDigit (s.len.toNat - 1) s with
    | .error f => .fault f
    | .ok c => .next (afterFin (setLastd c s))

/-- The select step (R124): the branch depends on `LASTD` alone. -/
def selectStep (s : State) : State :=
  if s.lastd = 0x31#8 then enterPrimitive .aff1 s
  else if s.lastd = 0x30#8 then enterPrimitive .aff0 s
  else raiseError .unsupportedNormalizationBranch s

/-- The sequencer's step (R142) when it decodes no item. "While `UNIT = IDLE` the sequencer takes no step." -/
def sequencerControl (s : State) : Result :=
  match s.unit with
  | .idle => .next s
  | .fetch => fetchControl s
  | .fin => finStep s
  | .affsel => .next (selectStep s)
  | .init | .dbl | .add | .aff1 | .aff0 => .fault (.noRomWord s.unit s.upc)

/-- The machine's step when it decodes no item: a host transaction, the reset event, or a step of the sequencer. A
`WAIT` that finds `DONE = 1` returns `STATUS`; one that does not stays, and the sequencer takes a step. -/
def controlStep (s : State) : Result :=
  match s.inputs with
  | [] => sequencerControl s
  | .tick :: rest => sequencerControl { s with inputs := rest }
  | .waitDone :: rest =>
    if flag .done s then .next (answer (.value s.status.toNat) { s with inputs := rest })
    else sequencerControl s
  | .read ha :: rest => .next (hostRead ha { s with inputs := rest })
  | .write ha v :: rest => .next (hostWrite ha v { s with inputs := rest })
  | .reset :: rest => .next (resetEvent { s with inputs := rest })

/-! ## The exit from a model fault -/

/-- What the outside world does after its first reset event; `none` where it makes none. -/
def afterReset : List Input → Option (List Input)
  | [] => none
  | .reset :: rest => some rest
  | .tick :: rest => afterReset rest
  | .waitDone :: rest => afterReset rest
  | .read _ :: rest => afterReset rest
  | .write _ _ :: rest => afterReset rest

/-- What a step that answers `r` comes to (R159, R170). A model fault has no successor state and "no later host
transaction has a defined result until reset"; reset is "the only exit from a model fault", by which "a state reached by
a model fault becomes a defined state again". So where the outside world goes on to reset the core, the next state there
is is the reset state, and what it asked before that is dropped (log entry 5); where it does not, the fault is the
answer. -/
def faultExit (s : State) (r : Result) : Result :=
  match r with
  | .next t => .next t
  | .refused e => .refused e
  | .fault f =>
    match afterReset s.inputs with
    | none => .fault f
    | some rest => .next (resetEvent { s with inputs := rest })

end Sys2Proof.Machine
end

