-- ==== Sys2Proof/Machine/Step.lean ====
section
/-!
DEFINITION. One step of the machine, and the placing of a table word where the step reads its next item.
-/

namespace Sys2Proof.Machine

/-- What the step is about: decode the next item and run it, or, when there is none, take the control step. A word that
is not legal raises `IllegalMicroOp` (R61, R77). -/
def attempt (s : State) : Result :=
  match nextItem s with
  | none => controlStep s
  | some (it, t) =>
    match decode it with
    | .ok i => exec i t
    | .error e => .fault (.illegalMicroOp e.theWord)

/-- One step. A model fault ends the run, unless the outside world resets the core (R159, R170). -/
def step (s : State) : Host.Outcome State Fault Refusal := faultExit s (attempt s)

/-- The state with the table word `w` where `step` reads its next item. -/
def State.withFetchWord (s : State) (nbits w : Nat) : State := placeWord s nbits w

end Sys2Proof.Machine
end

