-- ==== Sys2Proof/Safety.lean ====
section
/-!
DEFINITION. What a statement about the core is said in: the operation a ROM slot holds, the events a microprogram
emits, the invariant of every state the core reaches, and the conditions under which a command runs without a model
fault (R172).
-/

namespace Sys2Proof.Machine

/-! ## What the ROMs hold -/

/-- The operation and the operands of a micro-operation. -/
def microFields : Instr → Option (OpKind × Reg × Reg × Option Reg)
  | .fmul dst sa sb => some (.mul, dst, sa, some sb)
  | .fadd dst sa sb => some (.add, dst, sa, some sb)
  | .fsub dst sa sb => some (.sub, dst, sa, some sb)
  | .fcpy dst sa => some (.copy, dst, sa, none)
  | .finv dst sa => some (.inv, dst, sa, none)
  | _ => none

/-- What the word at index `k` of `ROM.<u>` says by its fields (R57). -/
def slotFields (u : SeqUnit) (k : Nat) : Option (OpKind × Reg × Reg × Option Reg) :=
  match romWord u k with
  | none => none
  | some w =>
    match decodeMicro w with
    | .error _ => none
    | .ok i => microFields i

/-- The event the slot emits (R34). -/
def slotEvent (u : SeqUnit) (k : Nat) : Option Event :=
  match slotFields u k with
  | none => none
  | some (op, dst, sa, sb) => some { unit := u, slot := k + 1, op := op, dst := dst, sa := sa, sb := sb }

/-- The events of one run of `ROM.<u>`, in slot order. -/
def romEvents (u : SeqUnit) : List Event := (List.range (romLength u)).filterMap (slotEvent u)

/-- Whether the word at index `k` of `ROM.<u>` names `r` as its destination. -/
def slotWrites (u : SeqUnit) (k : Nat) (r : Reg) : Bool :=
  match slotFields u k with
  | some (_, dst, _, _) => dst == r
  | none => false

/-- Whether the word at index `k` of `ROM.<u>` names `r` as a source. -/
def slotReads (u : SeqUnit) (k : Nat) (r : Reg) : Bool :=
  match slotFields u k with
  | some (_, _, sa, sb) => sa == r || sb == some r
  | none => false

/-- Whether some slot before index `k` of `ROM.<u>` writes `r`. -/
def writtenBefore (u : SeqUnit) (k : Nat) (r : Reg) : Bool := (List.range k).any fun j => slotWrites u j r

/-- Whether some slot before index `k` of `ROM.<u>` reads `r`. -/
def readBefore (u : SeqUnit) (k : Nat) (r : Reg) : Bool := (List.range k).any fun j => slotReads u j r

/-! ## The invariant -/

/-- The units of the scalar-multiplier driver (R142). -/
def driverCommand (c : Code) : Bool := c == 0x03#8 || c == 0x05#8

/-- The commands under which the sequencer can be in a unit (R142). -/
def unitServes (u : SeqUnit) (c : Code) : Bool :=
  match u with
  | .idle => true
  | .init | .fetch | .fin => driverCommand c
  | .dbl => c == 0x01#8 || driverCommand c
  | .add => c == 0x02#8 || driverCommand c
  | .affsel | .aff1 | .aff0 => c == 0x04#8 || c == 0x05#8

/-- Whether the sequencer is at work on a digit: in `DBL` or `ADD` under `SMUL` or `KP`. -/
def atDigit (s : State) : Bool := (s.unit == .dbl || s.unit == .add) && driverCommand s.cmdr

/-- Whether the driver is running: `INIT`, `FETCH`, `FIN`, or at work on a digit. -/
def inDriver (s : State) : Bool := s.unit == .init || s.unit == .fetch || s.unit == .fin || atDigit s

/-- The microprograms at whose entry the scratch registers are invalidated (R16). -/
def usesScratch (u : SeqUnit) : Bool := u == .dbl || u == .add || u == .aff1 || u == .aff0

/-- Whether a driver command has run `INIT` and is not finished. -/
def afterInit (s : State) : Bool := s.unit != .idle && s.unit != .init && driverCommand s.cmdr

/-- The register holds the value `v`, canonical for the modulus, for some `v` (R21). -/
def Holds (s : State) (r : Reg) : Prop := ∃ v p, s.regs.get r = .value v ∧ s.p = .value p ∧ v < p

/-- What holds of every state the core reaches: at reset and after every step. -/
structure Invariant (s : State) : Prop where
  /-- R10. -/
  params_valid : s.params.valid = true
  /-- "`STATUS.BUSY = 1` exactly when `UNIT` is not `IDLE`" (R31). -/
  busy_iff : flag .busy s = true ↔ s.unit ≠ .idle
  /-- Reserved bit 7 of `STATUS` reads 0 (R30). -/
  reserved_bit : s.status.getLsbD 7 = false
  /-- `DONE` and `OUT_VALID` are set by the finish of a command and cleared by the next accept (R30). -/
  done_idle : flag .done s = true → s.unit = .idle
  valid_idle : flag .outValid s = true → s.unit = .idle
  /-- "`UPC` is always below the ROM's length when a fetch happens" (R43), and 0 outside the microprograms. -/
  upc_bound : if romLength s.unit = 0 then s.upc = 0 else s.upc < romLength s.unit
  /-- The digit buffer is canonical and has no entry at `NDIG` or above (R23). -/
  dig_wf : Memory.wf s.dig = true
  dig_bound : ∀ i, s.params.ndig ≤ i → Memory.read s.dig i = none
  /-- Every written register fits its width (R13, R44). -/
  regs_fit : ∀ r v, s.regs.get r = .value v → v < 2 ^ s.params.w
  p_fits : ∀ v, s.p = .value v → v < 2 ^ s.params.w
  mc_fits : ∀ v, s.mc = .value v → v < 2 ^ s.params.w
  /-- A run has a good modulus and a constant: the accept step has checked them (R161) and nothing writes them (R121). -/
  modulus_good : s.unit ≠ .idle → ∃ p mc, s.p = .value p ∧ s.mc = .value mc ∧ goodModulus s.params p = true
  /-- The unit is one that the running command uses (R142). -/
  unit_serves : unitServes s.unit s.cmdr = true
  /-- While a digit is worked on, `CUR` is that digit, and `ADD` runs for `'1'` only (R112, R113). -/
  cur_digit : atDigit s = true → s.cur = 0x31#8 ∨ (s.cur = 0x30#8 ∧ s.unit = .dbl)
  /-- "Legal values are `0 .. NDIG`": checked at the accept step of the driver's commands (R24, R161). -/
  len_bound : inDriver s = true → s.len.toNat ≤ s.params.ndig
  /-- The place of the driver's program counter (R25). -/
  dpos_digit : atDigit s = true → 1 ≤ s.dpos.toNat ∧ s.dpos.toNat < s.len.toNat
  dpos_driver : s.unit = .fetch ∨ s.unit = .fin → 1 ≤ s.dpos.toNat ∧ s.dpos.toNat ≤ max 1 s.len.toNat
  /-- A register that an earlier slot of the running microprogram reads or writes holds a canonical value (R21). -/
  slots_held : ∀ r, r ≠ .one → (writtenBefore s.unit s.upc r || readBefore s.unit s.upc r) = true → Holds s r
  /-- Any other scratch register is unwritten while a microprogram that uses them runs (R16). -/
  scratch_unwritten : ∀ r, r.isScratch = true → usesScratch s.unit = true →
    writtenBefore s.unit s.upc r = false → s.regs.get r = .unwritten
  /-- From the end of `INIT` to the end of the command the Point and the addend are written and canonical. -/
  point_holds : afterInit s = true → ∀ r, r.isPoint = true ∨ r = .ax ∨ r = .ay → Holds s r
  /-- After slot 1 of `AFF1`, `R0` is the square of `Z`; once slot 2 has inverted it neither is zero, so that slot 5
  "cannot be reached with zero" (R125, R162). -/
  converter_square : s.unit = .aff1 → s.upc = 1 → ∃ p mc z, s.p = .value p ∧ s.mc = .value mc ∧
    s.regs.z = .value z ∧ s.regs.r0 = .value (fpMul s.params p mc z z)
  converter_nonzero : s.unit = .aff1 → 2 ≤ s.upc → s.regs.r0 ≠ .value 0 ∧ s.regs.z ≠ .value 0
  /-- `OUT_VALID` says that `XA`, `YA` hold the values the converter wrote (R128). -/
  out_written : flag .outValid s = true → s.regs.xa ≠ .unwritten ∧ s.regs.ya ≠ .unwritten
  /-- The trace is made of events of the ROMs' slots (R34). -/
  trace_slots : ∀ e ∈ s.trace, slotEvent e.unit (e.slot - 1) = some e
  /-- No word but the ROMs' is ever presented to the decoder (R61). -/
  not_injected : s.injected = none

/-! ## Conditions of a run -/

/-- The core is idle in a state it can reach, and the host asks nothing more of it than what a statement adds. -/
structure Quiet (s : State) : Prop where
  inv : Invariant s
  idle : s.unit = .idle
  inputs : s.inputs = []

/-- `P` and `MC` are as the accept step of a legal command asks (R161). -/
structure Configured (s : State) (p mc : Nat) : Prop where
  modulus : s.p = .value p
  constant : s.mc = .value mc
  good : goodModulus s.params p = true

/-- The step from `s` to `t` is a reset event, asked for next or as the exit from a model fault: the outside world resets
the core, and `t` is the reset state (R170). -/
def ResetTaken (s t : State) : Prop :=
  Input.reset ∈ s.inputs ∧ t = { State.resetWith s.params with inputs := t.inputs }

/-- `k` steps of the machine. -/
def run (k : Nat) (s : State) : Result := Host.Core.run Sys2Proof.core k s

/-- `s` with the host about to write the code `c` to `CMD`. -/
def issue (c : Nat) (s : State) : State := { s with inputs := [.write 0x0000 c] }

end Sys2Proof.Machine
end

