-- ==== Sys2Proof/Safety/Meaning.lean ====
section
/-!
DEFINITION. What the contents of the registers stand for, and the functions the spec gives the commands: the field
element a value represents (R85), the closed forms of the doubling and the addition (R92, R100), the scalar loop
(R138), and the model faults a step can end in (R160 to R162). Statements compare the machine with these; the machine
calls none of them.
-/

namespace Sys2Proof.Machine

/-! ## Values and field elements -/

/-- The field element that the value `v` represents: a provider's values are the residues multiplied by its `one`
(R85). -/
def fieldOf (c : Params) (p mc : Nat) (v : Nat) : ZMod p := (v : ZMod p) * (fpOne c p mc : ZMod p)⁻¹

/-- A read of `r` answers the canonical value `v` under modulus `p` and constant `mc` (R19, R21). -/
def Reads (s : State) (p mc : Nat) (r : Reg) (v : Nat) : Prop :=
  v < p ∧ match r with
    | .one => v = fpOne s.params p mc
    | r => s.regs.get r = .value v

/-- The register holds a canonical value that represents `e`. -/
def Means (s : State) (p mc : Nat) (r : Reg) (e : ZMod p) : Prop :=
  ∃ v, s.regs.get r = .value v ∧ v < p ∧ fieldOf s.params p mc v = e

/-- The result the rules give a micro-operation on canonical operands (R78 to R82), in integer arithmetic; none for
`FINV` of 0. `b` is not used by an operation with one source. -/
def fieldResult (c : Params) (p mc : Nat) (k : OpKind) (a b : Nat) : Option Nat :=
  match k with
  | .mul => some (fpMul c p mc a b)
  | .add => some ((a + b) % p)
  | .sub => some ((a + p - b) % p)
  | .copy => some a
  | .inv => if a = 0 then none else some (fpInv c p a)

/-- The register file with the scratch registers unwritten (R16). -/
def RegFile.dropScratch (f : RegFile) : RegFile :=
  { f with r0 := .unwritten, r1 := .unwritten, r2 := .unwritten, r3 := .unwritten, t0 := .unwritten }

/-- The table of R142 for the end of a microprogram, with the finish of R143 written out: `BUSY` cleared and `DONE` set,
and at the end of the converter `OUT_VALID` and `BRANCH` as R125 and R126 say. `UPC` is 0 already. -/
def microprogramEnd (s : State) : State :=
  match s.unit with
  | .init => { s with unit := .fetch, dpos := 1#16 }
  | .dbl =>
    if s.cmdr = 0x01#8 then { s with unit := .idle, status := (s.status &&& 0xFE#8) ||| 0x02#8 }
    else if s.cur = 0x31#8 then { s with unit := .add, regs := s.regs.dropScratch }
    else { s with unit := .fetch, dpos := s.dpos + 1#16 }
  | .add =>
    if s.cmdr = 0x02#8 then { s with unit := .idle, status := (s.status &&& 0xFE#8) ||| 0x02#8 }
    else { s with unit := .fetch, dpos := s.dpos + 1#16 }
  | .aff1 => { s with unit := .idle, status := (s.status &&& 0xFE#8) ||| 0x62#8 }
  | .aff0 => { s with unit := .idle, status := (s.status &&& 0xBE#8) ||| 0x22#8 }
  | .idle | .fetch | .fin | .affsel => s

/-- What the micro-operation at index `k` of `ROM.<u>` leaves when its result is `c`: its destination, its event, `UPC`,
and after the last word the transition (R77). -/
def slotDone (u : SeqUnit) (k : Nat) (op : OpKind) (dst sa : Reg) (sb : Option Reg) (c : Nat) (s : State) : State :=
  let w : State := { s with
    unit := u
    regs := s.regs.set dst (.value c)
    trace := s.trace ++ [{ unit := u, slot := k + 1, op := op, dst := dst, sa := sa, sb := sb }] }
  if k + 1 = romLength u then microprogramEnd { w with upc := 0 } else { w with upc := k + 1 }

/-! ## The closed forms of the two primitives -/

/-- A Point over the field (R14). -/
structure Coordinates (F : Type) where
  x : F
  y : F
  z : F
  z2 : F
  z3 : F

/-- The five scratch registers over the field (R15). -/
structure Scratch (F : Type) where
  r0 : F
  r1 : F
  r2 : F
  r3 : F
  t0 : F

/-- The closed form of `DBL` (R92). -/
def doubled {F : Type} [CommRing F] (c : Coordinates F) : Coordinates F :=
  let m := 3 * (c.x ^ 2 - c.z2 ^ 2)
  let t := 4 * c.x * c.y ^ 2
  let x := m ^ 2 - 2 * t
  let z := 2 * c.y * c.z
  { x := x, y := m * (t - x) - 8 * c.y ^ 4, z := z, z2 := z ^ 2, z3 := z ^ 3 }

/-- What `DBL` leaves in the scratch registers (R96). -/
def doubledScratch {F : Type} [CommRing F] (c : Coordinates F) : Scratch F :=
  let m := 3 * (c.x ^ 2 - c.z2 ^ 2)
  let t := 4 * c.x * c.y ^ 2
  let x := m ^ 2 - 2 * t
  { r0 := m * (t - x), r1 := m ^ 2, r2 := 8 * c.y ^ 4, r3 := x, t0 := m ^ 2 - t }

/-- The closed form of `ADD` (R100). -/
def added {F : Type} [CommRing F] (c : Coordinates F) (ax ay : F) : Coordinates F :=
  let h := ax * c.z2 - c.x
  let r := ay * c.z3 - c.y
  let v := c.x * h ^ 2
  let x := r ^ 2 - h ^ 3 - 2 * v
  let z := c.z * h
  { x := x, y := r * (v - x) - c.y * h ^ 3, z := z, z2 := z ^ 2, z3 := z ^ 3 }

/-- What `ADD` leaves in the scratch registers (R107). -/
def addedScratch {F : Type} [CommRing F] (c : Coordinates F) (ax ay : F) : Scratch F :=
  let h := ax * c.z2 - c.x
  let r := ay * c.z3 - c.y
  let v := c.x * h ^ 2
  let x := r ^ 2 - h ^ 3 - 2 * v
  { r0 := r * (v - x), r1 := c.y * h ^ 3, r2 := r ^ 2, r3 := x, t0 := r }

/-- The base point lifted into the five coordinates (R109). -/
def lifted {F : Type} [CommRing F] (ax ay : F) : Coordinates F := { x := ax, y := ay, z := 1, z2 := 1, z3 := 1 }

/-- The Point registers represent `c`. -/
structure PointMeans (s : State) (p mc : Nat) (c : Coordinates (ZMod p)) : Prop where
  x : Means s p mc .x c.x
  y : Means s p mc .y c.y
  z : Means s p mc .z c.z
  z2 : Means s p mc .z2 c.z2
  z3 : Means s p mc .z3 c.z3

/-- The scratch registers represent `c`. -/
structure ScratchMeans (s : State) (p mc : Nat) (c : Scratch (ZMod p)) : Prop where
  r0 : Means s p mc .r0 c.r0
  r1 : Means s p mc .r1 c.r1
  r2 : Means s p mc .r2 c.r2
  r3 : Means s p mc .r3 c.r3
  t0 : Means s p mc .t0 c.t0

/-- The two states hold the same in each of the registers `rs`. -/
def SameRegs (rs : List Reg) (s t : State) : Prop := ∀ r ∈ rs, t.regs.get r = s.regs.get r

/-! ## The scalar loop -/

/-- Whether the symbol at index `i` is the digit `'1'`. -/
def oneAt (dig : Memory) (i : Nat) : Bool := Memory.read dig i == some 0x31#8

/-- The accumulator after the digits at indices 1 to `m` (R138). -/
def driven {F : Type} [CommRing F] (dig : Memory) (ax ay : F) : Nat → Coordinates F
  | 0 => lifted ax ay
  | m + 1 =>
    if oneAt dig (m + 1) then added (doubled (driven dig ax ay m)) ax ay else doubled (driven dig ax ay m)

/-- The number of `'1'` symbols at indices 1 to `m`, the `h` of R118. -/
def onesTo (dig : Memory) : Nat → Nat
  | 0 => 0
  | m + 1 => onesTo dig m + if oneAt dig (m + 1) then 1 else 0

/-- The events of the digits at indices 1 to `m`: one `DBL` each, and an `ADD` for `'1'` (R112, R113). -/
def digitEvents (dig : Memory) : Nat → List Event
  | 0 => []
  | m + 1 => digitEvents dig m ++ (romEvents .dbl ++ if oneAt dig (m + 1) then romEvents .add else [])

/-- The value of the first `m + 1` symbols, the first read as 1 (R119). -/
def scalarTo (dig : Memory) : Nat → Nat
  | 0 => 1
  | m + 1 => 2 * scalarTo dig m + if oneAt dig (m + 1) then 1 else 0

/-- The string has a malformed symbol at index `i` (R67). -/
def malformedAt (s : State) (i : Nat) : Prop :=
  i < s.len.toNat ∧ ∃ c, Memory.read s.dig i = some c ∧ c ≠ 0x30#8 ∧ c ≠ 0x31#8

/-- What the string must be for the driver to process exactly `m` digits and latch the symbol `last` (R118, R172):
`LEN <= NDIG`, digits at 1 to `m`, then the end of the string or a malformed symbol, and the last symbol written. -/
structure Processes (s : State) (m : Nat) (last : Symbol) : Prop where
  fits : s.len.toNat ≤ s.params.ndig
  digits : ∀ i, 1 ≤ i → i ≤ m → Memory.read s.dig i = some 0x30#8 ∨ Memory.read s.dig i = some 0x31#8
  stops : m + 1 = max 1 s.len.toNat ∨ malformedAt s (m + 1)
  last_symbol : if s.len = 0#16 then last = 0x00#8 else Memory.read s.dig (s.len.toNat - 1) = some last

/-- `t` is `s` after `n` commands `DBL`, each run to its end. -/
def DoubledTimes : Nat → State → State → Prop
  | 0, s, t => t = s
  | n + 1, s, t => ∃ u, DoubledTimes n s u ∧ run 22 (issue 0x01 u) = .next t

/-! ## What two states share -/

/-- The two states differ at most in the values of the field registers, `P` and `MC`. -/
def SameControl (s t : State) : Prop := t = { s with regs := t.regs, p := t.p, mc := t.mc }

/-- The two states differ at most in the scratch registers. -/
def SameButScratch (s t : State) : Prop :=
  t = { s with regs := t.regs } ∧ ∀ r, r.isScratch = false → t.regs.get r = s.regs.get r

/-! ## The model faults of a step -/

/-- The registers whose read can fail at a slot: the first reads of inputs (the table of R160), by ROM index. -/
def inputReads : SeqUnit → Nat → List Reg
  | .init, 0 => [.ax]
  | .init, 1 => [.ay]
  | .dbl, 0 => [.x]
  | .dbl, 1 => [.z2]
  | .dbl, 4 => [.y]
  | .dbl, 6 => [.z]
  | .add, 0 => [.ax, .z2]
  | .add, 1 => [.ay, .z3]
  | .add, 2 => [.x]
  | .add, 4 => [.y]
  | .add, 6 => [.z]
  | .aff1, 0 => [.z]
  | .aff1, 2 => [.x]
  | .aff1, 5 => [.y]
  | .aff0, 0 => [.z2]
  | .aff0, 1 => [.x]
  | .aff0, 2 => [.z3]
  | .aff0, 3 => [.y]
  | _, _ => []

/-- The slots at which `FINV` can meet 0, by ROM index: `AFF1` slot 2, `AFF0` slots 1 and 3 (R162). -/
def inverts : SeqUnit → Nat → Bool
  | .aff1, 1 => true
  | .aff0, 0 => true
  | .aff0, 2 => true
  | _, _ => false

/-- The fault is one the rules list for a step taken from `s` (R160, R161, R162). -/
def listedFault (s : State) : Fault → Prop
  | .unwrittenRead (.reg r) => r ∈ inputReads s.unit s.upc ∧ s.regs.get r = .unwritten
  | .nonCanonical r =>
    r ∈ inputReads s.unit s.upc ∧ ∃ v p, s.regs.get r = .value v ∧ s.p = .value p ∧ p ≤ v
  | .finvZero => inverts s.unit s.upc = true
  | .unwrittenRead (.dig i) =>
    Memory.read s.dig i = none ∧
      ((s.unit = .fetch ∧ i = s.dpos.toNat ∧ i < s.len.toNat) ∨
       (s.unit = .fin ∧ 1 ≤ s.len.toNat ∧ i = s.len.toNat - 1))
  | .unwrittenRead .modulus => s.unit = .idle ∧ s.p = .unwritten
  | .unwrittenRead .constant => s.unit = .idle ∧ s.p ≠ .unwritten ∧ s.mc = .unwritten
  | .badModulus p =>
    s.unit = .idle ∧ s.p = .value p ∧ s.mc ≠ .unwritten ∧ ¬ (Nat.Prime p ∧ 3 < p ∧ p < 2 ^ s.params.w)
  | .lenOutOfRange l => s.unit = .idle ∧ l = s.len ∧ s.params.ndig < s.len.toNat
  | .illegalMicroOp _ | .noRomWord _ _ | .noDigEntry _ => False

/-! ## The structure of a microprogram -/

/-- Whether the value that slot `k` of `ROM.<u>` writes is used: a later slot reads it before it is overwritten, or it
stays in a Point register (R93). -/
def slotLive (u : SeqUnit) (k : Nat) : Bool :=
  match slotFields u k with
  | none => false
  | some (_, dst, _, _) =>
    let rest := (List.range (romLength u)).filter fun j => decide (k < j)
    (rest.any fun j => slotReads u j dst && !((rest.filter fun i => decide (i < j)).any fun i => slotWrites u i dst)) ||
      (dst.isPoint && !(rest.any fun j => slotWrites u j dst))

/-- The number of slots of `ROM.<u>` with operation `op`. -/
def opCount (u : SeqUnit) (op : OpKind) : Nat := (romEvents u).countP fun e => e.op == op

/-- The word is legal (R60), by its fields as R57 gives them in integers. -/
def legalWord (w : MicroWord) : Prop :=
  let op := w.toNat / 4096
  let dst := w.toNat / 256 % 16
  let sa := w.toNat / 16 % 16
  let sb := w.toNat % 16
  1 ≤ op ∧ op ≤ 5 ∧ (dst ≤ 9 ∨ dst = 12 ∨ dst = 13) ∧ sa ≤ 14 ∧ (if op ≤ 3 then sb ≤ 14 else sb = 0)

/-! ## The host's view -/

/-- The registers of R44 but for `DIG`, by index, and what each shows to a host read of an idle core. -/
def hostTable (s : State) : List (Nat × Option Nat) :=
  [(0x0000, some 0), (0x0001, some s.status.toNat), (0x0002, some s.len.toNat), (0x0003, some s.dpos.toNat),
   (0x0004, some s.lastd.toNat), (0x0010, s.regs.x.shown), (0x0011, s.regs.y.shown), (0x0012, s.regs.z.shown),
   (0x0013, s.regs.z2.shown), (0x0014, s.regs.z3.shown), (0x001A, s.regs.ax.shown), (0x001B, s.regs.ay.shown),
   (0x001C, s.regs.xa.shown), (0x001D, s.regs.ya.shown), (0x0020, s.p.shown), (0x0021, s.mc.shown)]

/-- The indices that R44 does not map (R51). -/
def unmapped (c : Params) (ha : Nat) : Prop :=
  (0x0005 ≤ ha ∧ ha ≤ 0x000F) ∨ (0x0015 ≤ ha ∧ ha ≤ 0x0019) ∨ (0x001E ≤ ha ∧ ha ≤ 0x001F) ∨
  (0x0022 ≤ ha ∧ ha ≤ 0x0FFF) ∨ 0x1000 + c.ndig ≤ ha

/-- The reply to a read that shows `v`. -/
def replyOf : Option Nat → Reply
  | none => .refused
  | some v => .value v

end Sys2Proof.Machine
end

