-- ==== Sys2Proof/Certificates/Slice0/Obligations.lean ====
section
/-!
DEFINITION. The statements for the provers. Each docstring names the rule of the spec it formalises.
-/

open Sys2Proof Sys2Proof.Machine

/-! ## Encoding -/

/-- Every word of the table of V19, every symbol and every command code it lists decodes to what the vector says, and
its illegal words are rejected (R57 to R69). The ROM bytes V19 also lists are in `PrimitivesHaveOneShape` (the shapes)
and `RomWordsDecodeToTheListings` (the whole words). -/
def Obligations.WorkedWordsDecode : Prop :=
  decodeMicro 0x1227#16 = .ok (.fmul .z .z .r2) ∧ decodeMicro 0x3556#16 = .ok (.fsub .r0 .r0 .r1) ∧
  decodeMicro 0x2711#16 = .ok (.fadd .r2 .y .y) ∧ decodeMicro 0x4960#16 = .ok (.fcpy .t0 .r1) ∧
  decodeMicro 0x5650#16 = .ok (.finv .r1 .r0) ∧ decodeMicro 0x42E0#16 = .ok (.fcpy .z .one) ∧
  decodeMicro 0x1C06#16 = .ok (.fmul .xa .x .r1) ∧
  decodeMicro 0x0000#16 = .ok (.reservedOp 0x0000#16) ∧ decodeMicro 0x6123#16 = .ok (.reservedOp 0x6123#16) ∧
  decodeMicro 0x1A00#16 = .error (.illegalDst 0x1A00#16) ∧ decodeMicro 0x1E00#16 = .error (.illegalDst 0x1E00#16) ∧
  decodeMicro 0x10F0#16 = .error (.reservedRegister 0x10F0#16) ∧
  decodeMicro 0x4961#16 = .error (.nonzeroSb 0x4961#16) ∧ decodeMicro 0x5651#16 = .error (.nonzeroSb 0x5651#16) ∧
  decodeSymbol 0x30#8 = .symZero ∧ decodeSymbol 0x31#8 = .symOne ∧
  (∀ c ∈ [0x00#8, 0x20#8, 0x2F#8, 0x32#8, 0x78#8, 0xFF#8], decodeSymbol c = .symMalformed c) ∧
  decodeCommand 0x01#8 = .cmdDbl ∧ decodeCommand 0x02#8 = .cmdAdd ∧ decodeCommand 0x03#8 = .cmdSmul ∧
  decodeCommand 0x04#8 = .cmdAff ∧ decodeCommand 0x05#8 = .cmdKp ∧
  ∀ c ∈ [0x00#8, 0x06#8, 0x80#8, 0xFF#8], decodeCommand c = .cmdIllegal c

/-- Decoding the encoding of a well-formed instruction gives the instruction, whatever its operands (R56 to R69). -/
def Obligations.DecodeInvertsEncode : Prop :=
  ∀ i : Instr, wellFormed i = true → decode (encode i) = .ok i

/-- A 16-bit word is legal by R60 exactly when it decodes to an operation, and then it is the one encoding of that
operation; a reserved `OP` decodes to its own row and any other illegal word is rejected with the word (R57, R60, R61).
-/
def Obligations.EveryMicroWordHasOneReading : Prop :=
  ∀ w : MicroWord,
    (legalWord w → ∃ i, decodeMicro w = .ok i ∧ wellFormed i = true ∧ (microFields i).isSome = true ∧
      encode i = .word w ∧ ∀ j, wellFormed j = true → encode j = .word w → j = i) ∧
    (¬ legalWord w → (w.toNat / 4096 = 0 ∨ 6 ≤ w.toNat / 4096) → decodeMicro w = .ok (.reservedOp w)) ∧
    (¬ legalWord w → 1 ≤ w.toNat / 4096 → w.toNat / 4096 ≤ 5 → ∃ e, decodeMicro w = .error e ∧ e.theWord = w)

/-- The five command codes, every other code illegal (R68, R69); the two digits, every other symbol malformed (R67). -/
def Obligations.CommandAndSymbolCodesDecode : Prop :=
  decodeCommand 0x01#8 = .cmdDbl ∧ decodeCommand 0x02#8 = .cmdAdd ∧ decodeCommand 0x03#8 = .cmdSmul ∧
  decodeCommand 0x04#8 = .cmdAff ∧ decodeCommand 0x05#8 = .cmdKp ∧
  (∀ c : Code, (c.toNat = 0 ∨ 6 ≤ c.toNat) → decodeCommand c = .cmdIllegal c) ∧
  decodeSymbol 0x30#8 = .symZero ∧ decodeSymbol 0x31#8 = .symOne ∧
  ∀ c : Symbol, c ≠ 0x30#8 → c ≠ 0x31#8 → decodeSymbol c = .symMalformed c

/-- The words of the five ROMs (R62) decode to the listings of R109, R91, R99, R125 and R126. -/
def Obligations.RomWordsDecodeToTheListings : Prop :=
  romInitWords.map decodeMicro = [
    .fcpy .x .ax, .fcpy .y .ay, .fcpy .z .one, .fcpy .z2 .one, .fcpy .z3 .one].map Except.ok ∧
  romDblWords.map decodeMicro = [
    .fmul .r0 .x .x, .fmul .r1 .z2 .z2, .fsub .r0 .r0 .r1, .fcpy .t0 .r1, .fadd .r2 .y .y, .fmul .r3 .r2 .r2,
    .fmul .z .z .r2, .fmul .r2 .r2 .y, .fmul .x .x .r3, .fmul .z2 .z .z, .fadd .r1 .r0 .r0, .fadd .r0 .r1 .r0,
    .fmul .r1 .r0 .r0, .fsub .t0 .r1 .x, .fmul .r2 .r2 .r3, .fsub .r3 .t0 .x, .fsub .x .x .r3, .fmul .r0 .r0 .x,
    .fsub .y .r0 .r2, .fmul .z3 .z .z2, .fcpy .x .r3].map Except.ok ∧
  romAddWords.map decodeMicro = [
    .fmul .r0 .ax .z2, .fmul .r1 .ay .z3, .fsub .r0 .r0 .x, .fcpy .t0 .r1, .fadd .r2 .y .y, .fmul .r3 .r0 .r0,
    .fmul .z .z .r0, .fmul .r2 .r0 .r3, .fmul .x .x .r3, .fmul .z2 .z .z, .fadd .r1 .x .x, .fadd .r0 .r2 .r1,
    .fmul .r1 .y .r2, .fsub .t0 .t0 .y, .fmul .r2 .t0 .t0, .fsub .r3 .r2 .r0, .fsub .x .x .r3, .fmul .r0 .t0 .x,
    .fsub .y .r0 .r1, .fmul .z3 .z .z2, .fcpy .x .r3].map Except.ok ∧
  romAff1Words.map decodeMicro = [
    .fmul .r0 .z .z, .finv .r1 .r0, .fmul .xa .x .r1, .fmul .r0 .z .r0, .finv .r1 .r0, .fmul .ya .y .r1].map Except.ok ∧
  romAff0Words.map decodeMicro = [
    .finv .r1 .z2, .fmul .xa .x .r1, .finv .r1 .z3, .fmul .ya .y .r1].map Except.ok

/-- The two primitives have one shape: the upper bytes of their words agree slot by slot (R65, R101), and those bytes
are the 21 of R101. -/
def Obligations.PrimitivesHaveOneShape : Prop :=
  (∀ i < 21, (romWord .dbl i).map shapeOf = (romWord .add i).map shapeOf ∧ (romWord .dbl i).isSome = true) ∧
  romDblWords.map (fun w => w.toNat / 256) =
    [0x15, 0x16, 0x35, 0x49, 0x27, 0x18, 0x12, 0x17, 0x10, 0x13, 0x26, 0x25, 0x16, 0x39, 0x17, 0x38, 0x30, 0x15, 0x31,
     0x14, 0x40] ∧
  (romEvents .dbl).map (fun e => (e.op, e.dst)) = (romEvents .add).map (fun e => (e.op, e.dst))

/-- The structural properties of the two primitives (R93, R102, R103): 21 operations, 11 `FMUL`, 3 `FADD`, 5 `FSUB`,
2 `FCPY`, no `FINV`; destinations among the scratch and Point registers; one dead operation, slot 4 of `DBL` and slot 5
of `ADD`; no scratch register read before it is written. -/
def Obligations.PrimitivesKeepTheirStructure : Prop :=
  (∀ u ∈ [SeqUnit.dbl, .add],
    romLength u = 21 ∧ (romEvents u).length = 21 ∧ opCount u .mul = 11 ∧ opCount u .add = 3 ∧ opCount u .sub = 5 ∧
    opCount u .copy = 2 ∧ opCount u .inv = 0 ∧
    (romEvents u).all (fun e => e.dst.isScratch || e.dst.isPoint) = true ∧
    ∀ k < 21, ∀ r ∈ [Reg.r0, .r1, .r2, .r3, .t0], slotReads u k r = true → writtenBefore u k r = true) ∧
  (∀ k < 21, slotLive .dbl k = false ↔ k = 3) ∧ (∀ k < 21, slotLive .add k = false ↔ k = 4)

/-! ## The provider -/

/-- The laws of R86, for every instance and all canonical values, and the results are canonical (R76). -/
def Obligations.ProviderIsAField : Prop :=
  ∀ (c : Params) (p mc : Nat), goodModulus c p = true → ∀ a b d : Nat, a < p → b < p → d < p →
    fpMul c p mc a b < p ∧ fpAdd p a b < p ∧ fpSub p a b < p ∧ fpOne c p mc < p ∧
    fpMul c p mc a b = fpMul c p mc b a ∧
    fpMul c p mc (fpMul c p mc a b) d = fpMul c p mc a (fpMul c p mc b d) ∧
    fpMul c p mc a (fpAdd p b d) = fpAdd p (fpMul c p mc a b) (fpMul c p mc a d) ∧
    fpMul c p mc a (fpSub p b d) = fpSub p (fpMul c p mc a b) (fpMul c p mc a d) ∧
    fpAdd p a b = fpAdd p b a ∧ fpAdd p (fpAdd p a b) d = fpAdd p a (fpAdd p b d) ∧ fpAdd p a 0 = a ∧
    fpSub p a b = fpAdd p a (fpSub p 0 b) ∧ fpMul c p mc a 0 = 0 ∧ fpMul c p mc a (fpOne c p mc) = a ∧
    (a ≠ 0 → 1 ≤ fpInv c p a ∧ fpInv c p a < p ∧ fpMul c p mc a (fpInv c p a) = fpOne c p mc) ∧
    fpCopy a = a

/-- The canonical values are in bijection with the field of `p` elements, and the bijection carries each function of the
provider to the field's operation, whichever the instance (R85, R86). -/
def Obligations.ProviderRepresentsTheField : Prop :=
  ∀ (c : Params) (p mc : Nat), goodModulus c p = true →
    (∀ e : ZMod p, ∃ v, v < p ∧ fieldOf c p mc v = e ∧ ∀ v', v' < p → fieldOf c p mc v' = e → v' = v) ∧
    fieldOf c p mc (fpOne c p mc) = 1 ∧
    ∀ a b : Nat, a < p → b < p →
      fieldOf c p mc (fpMul c p mc a b) = fieldOf c p mc a * fieldOf c p mc b ∧
      fieldOf c p mc (fpAdd p a b) = fieldOf c p mc a + fieldOf c p mc b ∧
      fieldOf c p mc (fpSub p a b) = fieldOf c p mc a - fieldOf c p mc b ∧
      (a ≠ 0 → fieldOf c p mc (fpInv c p a) = (fieldOf c p mc a)⁻¹)

/-- The two instances the spec writes out: plain arithmetic (R84) and Montgomery arithmetic with `R = 2^W` (R85). -/
def Obligations.ReferenceAndMontgomeryInstances : Prop :=
  ∀ (c : Params) (p mc a b : Nat), goodModulus c p = true → a < p → b < p →
    (c.provider = .reference →
      fpOne c p mc = 1 ∧ fpMul c p mc a b = a * b % p ∧ (a ≠ 0 → fpInv c p a = a ^ (p - 2) % p)) ∧
    (c.provider = .montgomery →
      fpOne c p mc = 2 ^ c.w % p ∧ fpMul c p mc a b < p ∧ fpMul c p mc a b * 2 ^ c.w % p = a * b % p ∧
      (a ≠ 0 → fpInv c p a < p ∧ fpInv c p a * a % p = 2 ^ c.w * 2 ^ c.w % p)) ∧
    fpAdd p a b = (a + b) % p ∧ fpSub p a b = (a + p - b) % p

/-! ## The five micro-operations -/

/-- `FMUL` writes the product of its sources to its destination, emits its event, steps `UPC`, and changes nothing else
(R77, R78). With the reference provider the product is `(a * b) mod p`. -/
def Obligations.FmulWritesTheProduct : Prop :=
  ∀ (s : State) (dst sa sb : Reg) (p mc a b : Nat), s.p = .value p → s.mc = .value mc → dst.legalDst = true →
    Reads s p mc sa a → Reads s p mc sb b → s.upc + 1 ≠ romLength s.unit →
    exec (.fmul dst sa sb) s = .next { s with
      regs := s.regs.set dst (.value (fpMul s.params p mc a b))
      trace := s.trace ++ [{ unit := s.unit, slot := s.upc + 1, op := .mul, dst := dst, sa := sa, sb := some sb }]
      upc := s.upc + 1 } ∧
    (s.params.provider = .reference → fpMul s.params p mc a b = a * b % p)

/-- `FADD` writes `(a + b) mod p` (R77, R79). -/
def Obligations.FaddWritesTheSum : Prop :=
  ∀ (s : State) (dst sa sb : Reg) (p mc a b : Nat), s.p = .value p → s.mc = .value mc → dst.legalDst = true →
    Reads s p mc sa a → Reads s p mc sb b → s.upc + 1 ≠ romLength s.unit →
    exec (.fadd dst sa sb) s = .next { s with
      regs := s.regs.set dst (.value ((a + b) % p))
      trace := s.trace ++ [{ unit := s.unit, slot := s.upc + 1, op := .add, dst := dst, sa := sa, sb := some sb }]
      upc := s.upc + 1 }

/-- `FSUB` writes `(a - b) mod p`, the first source the minuend (R77, R80). -/
def Obligations.FsubWritesTheDifference : Prop :=
  ∀ (s : State) (dst sa sb : Reg) (p mc a b : Nat), s.p = .value p → s.mc = .value mc → dst.legalDst = true →
    Reads s p mc sa a → Reads s p mc sb b → s.upc + 1 ≠ romLength s.unit →
    exec (.fsub dst sa sb) s = .next { s with
      regs := s.regs.set dst (.value (((a : ℤ) - (b : ℤ)) % (p : ℤ)).toNat)
      trace := s.trace ++ [{ unit := s.unit, slot := s.upc + 1, op := .sub, dst := dst, sa := sa, sb := some sb }]
      upc := s.upc + 1 }

/-- `FCPY` writes the value of its source unchanged; its event has no second source (R77, R81). -/
def Obligations.FcpyWritesItsSource : Prop :=
  ∀ (s : State) (dst sa : Reg) (p mc a : Nat), s.p = .value p → s.mc = .value mc → dst.legalDst = true →
    Reads s p mc sa a → s.upc + 1 ≠ romLength s.unit →
    exec (.fcpy dst sa) s = .next { s with
      regs := s.regs.set dst (.value a)
      trace := s.trace ++ [{ unit := s.unit, slot := s.upc + 1, op := .copy, dst := dst, sa := sa, sb := none }]
      upc := s.upc + 1 }

/-- `FINV` of a value other than 0 writes the `c` in `[1, p)` with `FP.mul(a, c, p, mc) = FP.one(p, mc)`; it is
`FP.inv(a, p)`, which takes no constant (R76, R82). -/
def Obligations.FinvWritesTheInverse : Prop :=
  ∀ (s : State) (dst sa : Reg) (p mc a : Nat), s.p = .value p → s.mc = .value mc → goodModulus s.params p = true →
    dst.legalDst = true → Reads s p mc sa a → a ≠ 0 → s.upc + 1 ≠ romLength s.unit →
    ∃ c, c = fpInv s.params p a ∧ 1 ≤ c ∧ c < p ∧ fpMul s.params p mc a c = fpOne s.params p mc ∧
      exec (.finv dst sa) s = .next { s with
        regs := s.regs.set dst (.value c)
        trace := s.trace ++ [{ unit := s.unit, slot := s.upc + 1, op := .inv, dst := dst, sa := sa, sb := none }]
        upc := s.upc + 1 }

/-- The faults of a micro-operation, in the order of R156 and R161: the first source unwritten, then not canonical,
then the second source, then `FINV` of 0 (R82, R160, R162). -/
def Obligations.OperandFaultsComeInOrder : Prop :=
  ∀ (i : Instr) (k : OpKind) (dst sa : Reg) (sb : Option Reg) (s : State) (p mc : Nat),
    microFields i = some (k, dst, sa, sb) → wellFormed i = true → s.p = .value p → s.mc = .value mc →
    (sa ≠ .one → s.regs.get sa = .unwritten → exec i s = .fault (.unwrittenRead (.reg sa))) ∧
    (∀ v, sa ≠ .one → s.regs.get sa = .value v → p ≤ v → exec i s = .fault (.nonCanonical sa)) ∧
    (∀ a r, Reads s p mc sa a → sb = some r → r ≠ .one → s.regs.get r = .unwritten →
      exec i s = .fault (.unwrittenRead (.reg r))) ∧
    (∀ a r v, Reads s p mc sa a → sb = some r → r ≠ .one → s.regs.get r = .value v → p ≤ v →
      exec i s = .fault (.nonCanonical r)) ∧
    (k = .inv → Reads s p mc sa 0 → exec i s = .fault .finvZero)

/-- A reserved operation code is the model fault `IllegalMicroOp` on every state; a word that is not legal, presented to
the sequencer, faults too; and no ROM holds one (R61, R161). Presenting such a word takes the model's own field
`injected`, which no step fills (log entry 6). -/
def Obligations.IllegalWordsFault : Prop :=
  (∀ (w : MicroWord) (s : State), exec (.reservedOp w) s = .fault (.illegalMicroOp w)) ∧
  (∀ (w : MicroWord) (s : State), ¬ legalWord w → s.inputs = [] → s.injected = some w → romLength s.unit ≠ 0 →
    step s = .fault (.illegalMicroOp w)) ∧
  (∀ (u : SeqUnit) (k : Nat) (w : MicroWord), romWord u k = some w → legalWord w)

/-- At the last slot of a microprogram each of the five operations also makes the transition of R142, with the finish of
R143 where the table has one. -/
def Obligations.LastSlotMakesTheTransition : Prop :=
  ∀ (i : Instr) (k : OpKind) (dst sa : Reg) (sb : Option Reg) (s : State) (p mc a b c : Nat),
    microFields i = some (k, dst, sa, sb) → wellFormed i = true → s.p = .value p → s.mc = .value mc →
    Reads s p mc sa a → (∀ r, sb = some r → Reads s p mc r b) → fieldResult s.params p mc k a b = some c →
    s.upc + 1 = romLength s.unit →
    exec i s = .next (microprogramEnd { s with
      regs := s.regs.set dst (.value c)
      trace := s.trace ++ [{ unit := s.unit, slot := s.upc + 1, op := k, dst := dst, sa := sa, sb := sb }]
      upc := 0 })

/-! ## The rows of the ROMs -/

/-- Every row of `ROM.DBL` and of `ROM.ADD`, on readable operands, completes: it writes the result of the operation
its word names, emits its event, and goes to the next slot, or after slot 21 makes the transition of R142 (R77, R91,
R99). The sequencer runs the row only where `UNIT` and `UPC` name its slot; that elsewhere the row sets them to its slot
is the model's choice (log entry 8). -/
def Obligations.PrimitiveRowsComplete : Prop :=
  ∀ (s : State) (u : SeqUnit) (i : Instr) (k : Nat) (op : OpKind) (dst sa : Reg) (sb : Option Reg) (p mc a b c : Nat),
    u = .dbl ∨ u = .add → romRow u k = some i → slotFields u k = some (op, dst, sa, sb) →
    s.p = .value p → s.mc = .value mc →
    Reads s p mc sa a → (∀ r, sb = some r → Reads s p mc r b) → fieldResult s.params p mc op a b = some c →
    exec i s = .next (slotDone u k op dst sa sb c s)

/-- Every row of `ROM.INIT`, `ROM.AFF1` and `ROM.AFF0`, on readable operands and with no inversion of 0, completes in
the same way; after the last slot of `INIT` to `FETCH` with `DPOS = 1`, after that of a converter branch with
`OUT_VALID`, `BRANCH` and the finish (R77, R109, R110, R125, R126, R142). The sequencer runs the row only where `UNIT`
and `UPC` name its slot; that elsewhere the row sets them to its slot is the model's choice (log entry 8). -/
def Obligations.InitAndConverterRowsComplete : Prop :=
  ∀ (s : State) (u : SeqUnit) (i : Instr) (k : Nat) (op : OpKind) (dst sa : Reg) (sb : Option Reg) (p mc a b c : Nat),
    u = .init ∨ u = .aff1 ∨ u = .aff0 → romRow u k = some i → slotFields u k = some (op, dst, sa, sb) →
    s.p = .value p → s.mc = .value mc →
    Reads s p mc sa a → (∀ r, sb = some r → Reads s p mc r b) → fieldResult s.params p mc op a b = some c →
    exec i s = .next (slotDone u k op dst sa sb c s)

/-! ## Commands -/

/-- The accept step of `DBL`, `ADD` and `AFF` on an idle core with a good modulus and a constant (R135): bits 1 to 6
of `STATUS` cleared and `BUSY` set, `CMDR` loaded, the unit entered, and for the primitives the scratch registers
unwritten; nothing else changes but the reply to the host. -/
def Obligations.UnitCommandsAreAccepted : Prop :=
  ∀ (s : State) (p mc : Nat), Configured s p mc → flag .busy s = false →
    exec .cmdDbl s = .next { s with
      status := (s.status &&& 0x80#8) ||| 0x01#8, cmdr := 0x01#8, regs := s.regs.dropScratch, unit := .dbl, upc := 0
      reply := .done } ∧
    exec .cmdAdd s = .next { s with
      status := (s.status &&& 0x80#8) ||| 0x01#8, cmdr := 0x02#8, regs := s.regs.dropScratch, unit := .add, upc := 0
      reply := .done } ∧
    exec .cmdAff s = .next { s with
      status := (s.status &&& 0x80#8) ||| 0x01#8, cmdr := 0x04#8, unit := .affsel, reply := .done }

/-- The accept step of `SMUL` and `KP`, where also `LEN <= NDIG` (R135). -/
def Obligations.DriverCommandsAreAccepted : Prop :=
  ∀ (s : State) (p mc : Nat), Configured s p mc → s.len.toNat ≤ s.params.ndig → flag .busy s = false →
    exec .cmdSmul s = .next { s with
      status := (s.status &&& 0x80#8) ||| 0x01#8, cmdr := 0x03#8, unit := .init, upc := 0, reply := .done } ∧
    exec .cmdKp s = .next { s with
      status := (s.status &&& 0x80#8) ||| 0x01#8, cmdr := 0x05#8, unit := .init, upc := 0, reply := .done }

/-- The checks of the accept step of a legal command, in the order of R161. -/
def Obligations.AcceptChecksComeInOrder : Prop :=
  ∀ (s : State) (i : Instr), i ∈ [Instr.cmdDbl, .cmdAdd, .cmdSmul, .cmdAff, .cmdKp] → flag .busy s = false →
    (s.p = .unwritten → exec i s = .fault (.unwrittenRead .modulus)) ∧
    (∀ p, s.p = .value p → s.mc = .unwritten → exec i s = .fault (.unwrittenRead .constant)) ∧
    (∀ p mc, s.p = .value p → s.mc = .value mc → ¬ (Nat.Prime p ∧ 3 < p ∧ p < 2 ^ s.params.w) →
      exec i s = .fault (.badModulus p)) ∧
    (∀ p mc, s.p = .value p → s.mc = .value mc → Nat.Prime p ∧ 3 < p ∧ p < 2 ^ s.params.w →
      s.params.ndig < s.len.toNat → i = .cmdSmul ∨ i = .cmdKp → exec i s = .fault (.lenOutOfRange s.len))

/-- A write to `CMD` while busy "is refused and changes nothing", whatever the code (R45, R135); only the model's reply
field says so. -/
def Obligations.CommandsWhileBusyAreRefused : Prop :=
  ∀ (s : State) (i : Instr) (c : Code), i ∈ [Instr.cmdDbl, .cmdAdd, .cmdSmul, .cmdAff, .cmdKp, .cmdIllegal c] →
    flag .busy s = true → exec i s = .next { s with reply := .refused }

/-- An illegal code on an idle core: `ERR_CMD` and `DONE`, `CMDR` holds the code, and nothing else changes (R141); with
the reserved bit 0 the whole of `STATUS` is 0x12. `P` need not be written. -/
def Obligations.IllegalCommandEndsAtOnce : Prop :=
  ∀ (s : State) (c : Code), flag .busy s = false → s.status.getLsbD 7 = false →
    exec (.cmdIllegal c) s = .next { s with status := 0x12#8, cmdr := c, reply := .done }

/-! ## Digit symbols and the driver's steps -/

/-- A digit starts the doubling: `CUR` takes it and the scratch registers become unwritten. A malformed symbol sets
`ERR_DIGIT`, goes to `FIN`, issues no operation and leaves `DPOS` (R111 to R114, R157). -/
def Obligations.SymbolsDecideTheDigit : Prop :=
  ∀ s : State,
    exec .symZero s = .next { s with cur := 0x30#8, regs := s.regs.dropScratch, unit := .dbl, upc := 0 } ∧
    exec .symOne s = .next { s with cur := 0x31#8, regs := s.regs.dropScratch, unit := .dbl, upc := 0 } ∧
    ∀ c : Symbol, exec (.symMalformed c) s = .next { s with cur := c, status := s.status ||| 0x04#8, unit := .fin }

/-- The fetch step (R111). -/
def Obligations.FetchStepFollowsTheDigit : Prop :=
  ∀ s : State, s.unit = .fetch → s.inputs = [] →
    (s.len.toNat ≤ s.dpos.toNat → step s = .next { s with unit := .fin }) ∧
    (s.dpos.toNat < s.len.toNat → s.dpos.toNat < s.params.ndig →
      (∀ c, Memory.read s.dig s.dpos.toNat = some c → c = 0x30#8 ∨ c = 0x31#8 →
        step s = .next { s with cur := c, regs := s.regs.dropScratch, unit := .dbl, upc := 0 }) ∧
      (∀ c, Memory.read s.dig s.dpos.toNat = some c → c ≠ 0x30#8 → c ≠ 0x31#8 →
        step s = .next { s with cur := c, status := s.status ||| 0x04#8, unit := .fin }) ∧
      (Memory.read s.dig s.dpos.toNat = none → step s = .fault (.unwrittenRead (.dig s.dpos.toNat))))

/-- The `FIN` step (R115) with its continuation (R142, R148): the last symbol of the string, or 0x00 for an empty one,
is latched; under `KP` the converter is next unless a malformed symbol stopped the loop and the policy is `ABORT`;
otherwise the command finishes. -/
def Obligations.FinStepLatchesAndContinues : Prop :=
  ∀ (s : State) (c : Symbol), s.unit = .fin → s.inputs = [] →
    ((s.len = 0#16 ∧ c = 0x00#8) ∨
      (1 ≤ s.len.toNat ∧ s.len.toNat ≤ s.params.ndig ∧ Memory.read s.dig (s.len.toNat - 1) = some c)) →
    step s = .next (
      if s.cmdr = 0x05#8 ∧ (flag .errDigit s = false ∨ s.params.policy = .normalizePartial) then
        { s with lastd := c, unit := .affsel }
      else { s with lastd := c, unit := .idle, upc := 0, status := (s.status &&& 0xFE#8) ||| 0x02#8 })

/-- The select step (R124): the branch depends on `LASTD` alone; any symbol but the two digits sets `ERR_NORM` and
finishes (R127, R143). -/
def Obligations.SelectStepReadsLastdAlone : Prop :=
  ∀ s : State, s.unit = .affsel → s.inputs = [] →
    (s.lastd = 0x31#8 → step s = .next { s with regs := s.regs.dropScratch, unit := .aff1, upc := 0 }) ∧
    (s.lastd = 0x30#8 → step s = .next { s with regs := s.regs.dropScratch, unit := .aff0, upc := 0 }) ∧
    (s.lastd ≠ 0x31#8 → s.lastd ≠ 0x30#8 →
      step s = .next { s with unit := .idle, upc := 0, status := ((s.status ||| 0x08#8) &&& 0xFE#8) ||| 0x02#8 })

/-! ## The step -/

/-- A step runs the instruction it decodes, with the state the item comes with: the word at `UPC` of the ROM that
`UNIT` names (R43, R77), the symbol at `DPOS` when `DPOS < LEN` (R42, R111), or the code the host writes to `CMD` of
an idle core (R135). What the step adds is the exit from a model fault: where the instruction faults and the outside
world goes on to reset the core, the next state is the reset state (R159, R170). An idle core with nothing to do takes
no step (R142). The host's entry is used up by its own step; a `tick` and a `WAIT` that finds `DONE = 0` let the
sequencer take the step (log entry 5). -/
def Obligations.StepRunsTheDecodedInstruction : Prop :=
  (∀ (s t : State) (it : Item) (i : Instr), nextItem s = some (it, t) → decode it = .ok i →
    (∀ u, exec i t = .next u → step s = .next u) ∧
    (Input.reset ∉ s.inputs → step s = exec i t) ∧
    (∀ f before rest, exec i t = .fault f → s.inputs = before ++ .reset :: rest → Input.reset ∉ before →
      step s = .next { State.resetWith s.params with inputs := rest })) ∧
  (∀ (s : State) (i : Instr) (rest : List Input), s.injected = none → romRow s.unit s.upc = some i →
    Input.reset ∉ rest →
    (s.inputs = [] → step s = exec i s) ∧
    (s.inputs = .tick :: rest → step s = exec i { s with inputs := rest }) ∧
    (s.inputs = .waitDone :: rest → flag .done s = false → step s = exec i s)) ∧
  (∀ (s : State) (c : Symbol), s.inputs = [] → s.unit = .fetch → s.dpos.toNat < s.len.toNat →
    s.dpos.toNat < s.params.ndig → Memory.read s.dig s.dpos.toNat = some c → step s = exec (decodeSymbol c) s) ∧
  (∀ (s : State) (v : Nat) (rest : List Input), s.inputs = .write 0x0000 v :: rest → Input.reset ∉ rest →
    flag .busy s = false → v < 256 →
    step s = exec (decodeCommand (BitVec.ofNat 8 v)) { s with inputs := rest }) ∧
  (∀ s : State, s.unit = .idle → s.inputs = [] → step s = .next s)

/-! ## The host's transactions -/

/-- A host read of an idle core returns what the map of R44 shows at the index, is refused for an unwritten register
and for an index the map does not have, and has no other effect (R44, R46, R50, R51, R163). -/
def Obligations.HostReadsFollowTheMap : Prop :=
  ∀ (s : State) (ha : Nat) (rest : List Input), s.inputs = .read ha :: rest → flag .busy s = false →
    (∀ v, (ha, v) ∈ hostTable s → step s = .next { s with inputs := rest, reply := replyOf v }) ∧
    (∀ j, ha = 0x1000 + j → j < s.params.ndig →
      step s = .next { s with inputs := rest, reply := replyOf ((Memory.read s.dig j).map BitVec.toNat) }) ∧
    (unmapped s.params ha → step s = .next { s with inputs := rest, reply := .refused })

/-- A host write to a writable register of an idle core, of a value no wider than the register, replaces its value and
has no other effect (R44, R46). -/
def Obligations.HostWritesFollowTheMap : Prop :=
  ∀ (s : State) (ha v : Nat) (rest : List Input), s.inputs = .write ha v :: rest → flag .busy s = false →
    (ha = 0x0002 → v < 65536 → step s = .next { s with inputs := rest, reply := .done, len := BitVec.ofNat 16 v }) ∧
    (ha = 0x0004 → v < 256 → step s = .next { s with inputs := rest, reply := .done, lastd := BitVec.ofNat 8 v }) ∧
    (v < 2 ^ s.params.w →
      (∀ r, (ha, r) ∈ [(0x0010, Reg.x), (0x0011, .y), (0x0012, .z), (0x0013, .z2), (0x0014, .z3), (0x001A, .ax),
          (0x001B, .ay)] →
        step s = .next { s with inputs := rest, reply := .done, regs := s.regs.set r (.value v) }) ∧
      (ha = 0x0020 → step s = .next { s with inputs := rest, reply := .done, p := .value v }) ∧
      (ha = 0x0021 → step s = .next { s with inputs := rest, reply := .done, mc := .value v })) ∧
    (∀ j, ha = 0x1000 + j → j < s.params.ndig → v < 256 →
      step s = .next { s with inputs := rest, reply := .done, dig := Memory.write s.dig j (BitVec.ofNat 8 v) })

/-- The writes that are refused on an idle core, with no effect but the reply: a read-only register, an index the map
does not have, a value wider than the register (R46, R163). -/
def Obligations.ForbiddenWritesAreRefused : Prop :=
  ∀ (s : State) (ha v : Nat) (rest : List Input), s.inputs = .write ha v :: rest → flag .busy s = false →
    ha ∈ [0x0001, 0x0003, 0x001C, 0x001D] ∨ unmapped s.params ha ∨
      (ha ∈ [0x0000, 0x0004] ∧ 256 ≤ v) ∨ (ha = 0x0002 ∧ 65536 ≤ v) ∨
      (ha ∈ [0x0010, 0x0011, 0x0012, 0x0013, 0x0014, 0x001A, 0x001B, 0x0020, 0x0021] ∧ 2 ^ s.params.w ≤ v) ∨
      (0x1000 ≤ ha ∧ ha < 0x1000 + s.params.ndig ∧ 256 ≤ v) →
    step s = .next { s with inputs := rest, reply := .refused }

/-- While busy, `HostRead(STATUS)` answers and every other transaction is refused and changes nothing (R45). -/
def Obligations.BusyCoreAnswersStatusOnly : Prop :=
  ∀ (s : State) (ha v : Nat) (rest : List Input), flag .busy s = true →
    (s.inputs = .read 0x0001 :: rest → step s = .next { s with inputs := rest, reply := .value s.status.toNat }) ∧
    (s.inputs = .read ha :: rest → ha ≠ 0x0001 → step s = .next { s with inputs := rest, reply := .refused }) ∧
    (s.inputs = .write ha v :: rest → step s = .next { s with inputs := rest, reply := .refused })

/-- The digit buffer: an entry reads what was last written to it, every other entry reads as before, the canonical form
is kept, and canonical buffers that read alike are equal. -/
def Obligations.DigitBufferReadsWhatWasWritten : Prop :=
  ∀ (m n : Memory) (i : Nat) (b : Symbol),
    (∀ k, Memory.read (Memory.write m i b) k = if k = i then some b else Memory.read m k) ∧
    (Memory.wf m = true → Memory.wf (Memory.write m i b) = true) ∧
    (Memory.wf m = true → Memory.wf n = true → (∀ k, Memory.read m k = Memory.read n k) → m = n)

/-! ## Reset -/

/-- The reset event replaces the whole state, whatever it was and also while busy, by the table of R36 (R170, R171),
and the state after reset is that table; the parameters, which are no state of the core, and the host's further inputs
stay. -/
def Obligations.ResetGivesTheTable : Prop :=
  (∀ (s : State) (rest : List Input), s.inputs = .reset :: rest →
    step s = .next { State.resetWith s.params with inputs := rest }) ∧
  State.reset = State.resetWith Config.standard ∧
  ∀ c : Params,
    (∀ r, (State.resetWith c).regs.get r = .unwritten) ∧
    (State.resetWith c).p = .unwritten ∧ (State.resetWith c).mc = .unwritten ∧
    (∀ i, Memory.read (State.resetWith c).dig i = none) ∧ (State.resetWith c).len = 0#16 ∧
    (State.resetWith c).dpos = 0#16 ∧ (State.resetWith c).lastd = 0x00#8 ∧ (State.resetWith c).status = 0x00#8 ∧
    (State.resetWith c).unit = .idle ∧ (State.resetWith c).upc = 0 ∧ (State.resetWith c).cmdr = 0x00#8 ∧
    (State.resetWith c).cur = 0x00#8 ∧ (State.resetWith c).trace = []

/-! ## Invariants and whole-machine rules -/

/-- The invariant holds of the reset state. -/
def Obligations.ResetMeetsTheInvariant : Prop :=
  Invariant State.reset ∧ ∀ c : Params, c.valid = true → Invariant (State.resetWith c)

/-- Every step keeps the invariant. -/
def Obligations.StepKeepsTheInvariant : Prop :=
  ∀ s t : State, Invariant s → step s = .next t → Invariant t

/-- No step changes the parameters; a step of the sequencer writes neither the addend nor `P`, `MC`, `DIG`, `LEN`
(R10, R17, R121). -/
def Obligations.SequencerOnlyReadsItsInputs : Prop :=
  ∀ s t : State, step s = .next t →
    t.params = s.params ∧
    (s.inputs = [] → t.regs.ax = s.regs.ax ∧ t.regs.ay = s.regs.ay ∧ t.p = s.p ∧ t.mc = s.mc ∧ t.dig = s.dig ∧
      t.len = s.len ∧ t.inputs = [] ∧ t.reply = s.reply)

/-- The output registers change only at slots 3 and 6 of `AFF1`, slots 2 and 4 of `AFF0`, and at reset (R18). -/
def Obligations.OutputIsWrittenByTheConverterOnly : Prop :=
  ∀ s t : State, Invariant s → step s = .next t → ¬ ResetTaken s t →
    (t.regs.xa ≠ s.regs.xa → (s.unit = .aff1 ∧ s.upc = 2) ∨ (s.unit = .aff0 ∧ s.upc = 1)) ∧
    (t.regs.ya ≠ s.regs.ya → (s.unit = .aff1 ∧ s.upc = 5) ∨ (s.unit = .aff0 ∧ s.upc = 3))

/-- `DPOS` is set to 1 at the end of `INIT`, is incremented when the whole work of a digit is done, and changes at no
other step but reset (R25, R110, R112, R113). -/
def Obligations.DigitPointerMovesByRule : Prop :=
  ∀ s t : State, Invariant s → step s = .next t → ¬ ResetTaken s t →
    t.dpos = s.dpos ∨ (s.unit = .init ∧ s.upc = 4 ∧ t.dpos = 1#16) ∨
    (s.unit = .dbl ∧ s.upc = 20 ∧ s.cur = 0x30#8 ∧ t.dpos = s.dpos + 1#16) ∨
    (s.unit = .add ∧ s.upc = 20 ∧ t.dpos = s.dpos + 1#16)

/-- Only the accept of a command and reset clear an error flag, and a step sets at most one (R156, R158). -/
def Obligations.ErrorFlagsStayUntilTheNextCommand : Prop :=
  ∀ s t : State, step s = .next t → ¬ ResetTaken s t →
    (∀ v, s.inputs.head? ≠ some (.write 0x0000 v)) →
    (∀ f ∈ [Flag.errDigit, .errNorm, .errCmd], flag f s = true → flag f t = true) ∧
    (flag .errDigit s = false → flag .errDigit t = true → s.unit = .fetch ∧ t.unit = .fin) ∧
    (flag .errNorm s = false → flag .errNorm t = true → s.unit = .affsel ∧ t.unit = .idle) ∧
    (flag .errCmd t = flag .errCmd s)

/-- From a state that meets the invariant a step ends only in a model fault that the rules list for that step: the
reads of the table of R160, the checks of R161, the inversions of R162. In particular no word is illegal, no fetch and
no digit read is out of range (R42, R43, R61). Such an end is one that no reset follows (R170). -/
def Obligations.FaultsAreThoseTheRulesList : Prop :=
  ∀ (s : State) (f : Fault), Invariant s → step s = .fault f → listedFault s f ∧ Input.reset ∉ s.inputs

/-- Inside a digit of `SMUL` or `KP` no step faults: the two primitives cannot fail on a written, canonical accumulator
(R97, R107, R174). -/
def Obligations.DigitsNeverFault : Prop :=
  ∀ s : State, Invariant s → atDigit s = true → ∃ t, step s = .next t

/-- Control is independent of data: two runs of the sequencer from states that differ only in the field registers, `P`
and `MC` have, as long as neither faults, the same trace, the same control registers and the same `STATUS` (R142,
R179). -/
def Obligations.ControlIgnoresFieldValues : Prop :=
  ∀ (k : Nat) (s s' t t' : State), SameControl s s' → s.inputs = [] → run k s = .next t → run k s' = .next t' →
    SameControl t t'

/-- The scratch registers carry nothing: outside the microprograms that use them, states that differ only in the scratch
registers run alike whatever the host does, faults included (R15, R35, R176). -/
def Obligations.ScratchRegistersCarryNothing : Prop :=
  ∀ (k : Nat) (s s' : State), usesScratch s.unit = false → s.injected = none → SameButScratch s s' →
    (∀ t, run k s = .next t → ∃ t', run k s' = .next t' ∧ SameButScratch t t') ∧
    (∀ f, run k s = .fault f → run k s' = .fault f)

/-! ## The commands as functions -/

/-- Command `DBL` (R92, R96, R97, R136): on a written, canonical Point, whatever its coordinates and whether or not
`Z3` is written, the run ends after 22 steps with the Point and the scratch registers at their closed forms, `STATUS`
0x02 and the 21 events of `ROM.DBL`; nothing else changes. -/
def Obligations.DoublingCommandComputesItsClosedForm : Prop :=
  ∀ (s : State) (p mc : Nat) (c : Coordinates (ZMod p)), Quiet s → Configured s p mc →
    Means s p mc .x c.x → Means s p mc .y c.y → Means s p mc .z c.z → Means s p mc .z2 c.z2 →
    ∃ t, run 22 (issue 0x01 s) = .next t ∧ PointMeans t p mc (doubled c) ∧ ScratchMeans t p mc (doubledScratch c) ∧
      SameRegs [.ax, .ay, .xa, .ya] s t ∧
      t = { s with regs := t.regs, status := 0x02#8, cmdr := 0x01#8, trace := s.trace ++ romEvents .dbl
                   reply := .done }

/-- Command `ADD` (R100, R107, R137). -/
def Obligations.AdditionCommandComputesItsClosedForm : Prop :=
  ∀ (s : State) (p mc : Nat) (c : Coordinates (ZMod p)) (ax ay : ZMod p), Quiet s → Configured s p mc →
    PointMeans s p mc c → Means s p mc .ax ax → Means s p mc .ay ay →
    ∃ t, run 22 (issue 0x02 s) = .next t ∧ PointMeans t p mc (added c ax ay) ∧
      ScratchMeans t p mc (addedScratch c ax ay) ∧ SameRegs [.ax, .ay, .xa, .ya] s t ∧
      t = { s with regs := t.regs, status := 0x02#8, cmdr := 0x02#8, trace := s.trace ++ romEvents .add
                   reply := .done }

/-- The generic case of `DBL` (R94): when the invariant `Z2 = Z*Z` holds and `Z`, `Y` are not 0, the Point after the
command projects to the affine double with `a = -3`. -/
def Obligations.GenericDoublingIsTheAffineLaw : Prop :=
  ∀ (s : State) (p mc : Nat) (c : Coordinates (ZMod p)), [Fact p.Prime] → Quiet s → Configured s p mc →
    PointMeans s p mc c → c.z2 = c.z ^ 2 → c.z ≠ 0 → c.y ≠ 0 →
    ∃ t c', run 22 (issue 0x01 s) = .next t ∧ PointMeans t p mc c' ∧ c'.z ≠ 0 ∧ c'.z2 = c'.z ^ 2 ∧
      c'.z3 = c'.z ^ 3 ∧
      let x := c.x / c.z ^ 2
      let y := c.y / c.z ^ 3
      let l := (3 * x ^ 2 - 3) / (2 * y)
      c'.x / c'.z ^ 2 = l ^ 2 - 2 * x ∧ c'.y / c'.z ^ 3 = l * (x - (l ^ 2 - 2 * x)) - y

/-- The generic case of `ADD` (R105): when the invariant holds, `Z` is not 0 and the two points differ in `x`, the Point
after the command projects to the affine sum. -/
def Obligations.GenericAdditionIsTheAffineLaw : Prop :=
  ∀ (s : State) (p mc : Nat) (c : Coordinates (ZMod p)) (ax ay : ZMod p), [Fact p.Prime] → Quiet s →
    Configured s p mc → PointMeans s p mc c → Means s p mc .ax ax → Means s p mc .ay ay →
    c.z2 = c.z ^ 2 → c.z3 = c.z ^ 3 → c.z ≠ 0 → c.x / c.z ^ 2 ≠ ax →
    ∃ t c', run 22 (issue 0x02 s) = .next t ∧ PointMeans t p mc c' ∧ c'.z ≠ 0 ∧ c'.z2 = c'.z ^ 2 ∧
      c'.z3 = c'.z ^ 3 ∧
      let x := c.x / c.z ^ 2
      let y := c.y / c.z ^ 3
      let l := (ay - y) / (ax - x)
      c'.x / c'.z ^ 2 = l ^ 2 - x - ax ∧ c'.y / c'.z ^ 3 = l * (x - (l ^ 2 - x - ax)) - y

/-- Command `AFF` (R125, R126, R127, R129, R139): both branches, each with the coordinates it writes, what it leaves in
the scratch registers, its `STATUS`, its events and its frame; and the error path, which changes only `STATUS` and
`CMDR`. -/
def Obligations.ConverterCommandWritesTheAffinePair : Prop :=
  ∀ (s : State) (p mc : Nat) (x y z z2 z3 : ZMod p), Quiet s → Configured s p mc →
    (s.lastd = 0x31#8 → Means s p mc .x x → Means s p mc .y y → Means s p mc .z z → z ≠ 0 →
      ∃ t, run 8 (issue 0x04 s) = .next t ∧ Means t p mc .xa (x * (z * z)⁻¹) ∧ Means t p mc .ya (y * (z * z * z)⁻¹) ∧
        Means t p mc .r0 (z * z * z) ∧ Means t p mc .r1 (z * z * z)⁻¹ ∧ t.regs.r2 = .unwritten ∧
        t.regs.r3 = .unwritten ∧ t.regs.t0 = .unwritten ∧ SameRegs [.x, .y, .z, .z2, .z3, .ax, .ay] s t ∧
        t = { s with regs := t.regs, status := 0x62#8, cmdr := 0x04#8, trace := s.trace ++ romEvents .aff1
                     reply := .done }) ∧
    (s.lastd = 0x30#8 → Means s p mc .x x → Means s p mc .y y → Means s p mc .z2 z2 → Means s p mc .z3 z3 → z2 ≠ 0 →
      z3 ≠ 0 →
      ∃ t, run 6 (issue 0x04 s) = .next t ∧ Means t p mc .xa (x * z2⁻¹) ∧ Means t p mc .ya (y * z3⁻¹) ∧
        Means t p mc .r1 z3⁻¹ ∧ t.regs.r0 = .unwritten ∧ t.regs.r2 = .unwritten ∧ t.regs.r3 = .unwritten ∧
        t.regs.t0 = .unwritten ∧ SameRegs [.x, .y, .z, .z2, .z3, .ax, .ay] s t ∧
        t = { s with regs := t.regs, status := 0x22#8, cmdr := 0x04#8, trace := s.trace ++ romEvents .aff0
                     reply := .done }) ∧
    (s.lastd ≠ 0x31#8 → s.lastd ≠ 0x30#8 →
      run 2 (issue 0x04 s) = .next { s with status := 0x0A#8, cmdr := 0x04#8, reply := .done })

/-- The two branches of the converter agree on a Point that satisfies the invariant and has `Z` not 0 (R130, R132): the
same `XA` and `YA`, register by register. -/
def Obligations.ConverterBranchesAgree : Prop :=
  ∀ (s : State) (p mc : Nat) (c : Coordinates (ZMod p)), Quiet s → Configured s p mc → PointMeans s p mc c →
    c.z2 = c.z * c.z → c.z3 = c.z * c.z2 → c.z ≠ 0 →
    ∃ t u, run 8 (issue 0x04 { s with lastd := 0x31#8 }) = .next t ∧
      run 6 (issue 0x04 { s with lastd := 0x30#8 }) = .next u ∧ t.regs.xa = u.regs.xa ∧ t.regs.ya = u.regs.ya ∧
      t.status = 0x62#8 ∧ u.status = 0x22#8

/-- A zero that the converter inverts ends the run in `FinvZero` (R131, R162): `Z = 0` on the `'1'` branch at slot 2,
`Z2 = 0` at slot 1 or `Z3 = 0` at slot 3 on the `'0'` branch. -/
def Obligations.ConverterOfZeroFaults : Prop :=
  ∀ (s : State) (p mc x : Nat), Quiet s → Configured s p mc →
    (s.lastd = 0x31#8 → s.regs.z = .value 0 → run 4 (issue 0x04 s) = .fault .finvZero) ∧
    (s.lastd = 0x30#8 → s.regs.z2 = .value 0 → run 3 (issue 0x04 s) = .fault .finvZero) ∧
    (∀ q, s.lastd = 0x30#8 → s.regs.z2 = .value q → q ≠ 0 → q < p → s.regs.x = .value x → x < p →
      s.regs.z3 = .value 0 → run 5 (issue 0x04 s) = .fault .finvZero)

/-- Command `SMUL` (R109, R118, R138, R145): with `m` digits processed, of which `h` are `'1'`, the accumulator is the
lifted base point driven through those digits, `DPOS = 1 + m`, `LASTD` is the last symbol, `STATUS` tells whether a
malformed symbol stopped the loop, and the trace grows by `5 + 21*m + 21*h` events. -/
def Obligations.ScalarCommandDrivesTheAccumulator : Prop :=
  ∀ (s : State) (p mc : Nat) (ax ay : ZMod p) (m : Nat) (last : Symbol), Quiet s → Configured s p mc →
    Means s p mc .ax ax → Means s p mc .ay ay → Processes s m last →
    ∃ t, run (8 + 22 * m + 21 * onesTo s.dig m) (issue 0x03 s) = .next t ∧
      PointMeans t p mc (driven s.dig ax ay m) ∧ SameRegs [.ax, .ay, .xa, .ya] s t ∧
      t.trace.length = s.trace.length + (5 + 21 * m + 21 * onesTo s.dig m) ∧
      t = { s with
        regs := t.regs, cur := t.cur, cmdr := 0x03#8, dpos := BitVec.ofNat 16 (1 + m), lastd := last
        status := if m + 1 < s.len.toNat then 0x06#8 else 0x02#8
        trace := s.trace ++ (romEvents .init ++ digitEvents s.dig m), reply := .done }

/-- Command `KP` (R140, R148): the driver as under `SMUL`, then the converter, with the values of `STATUS` of the table
of R140. A malformed symbol under `ABORT` ends the command before the converter; a last symbol that is no digit ends it
with `ERR_NORM`; otherwise the branch of the last symbol writes `X/Z^2` and `Y/Z^3`. -/
def Obligations.ChainCommandFollowsItsTable : Prop :=
  ∀ (s : State) (p mc : Nat) (ax ay : ZMod p) (m : Nat) (last : Symbol), Quiet s → Configured s p mc →
    Means s p mc .ax ax → Means s p mc .ay ay → Processes s m last →
    let n := 8 + 22 * m + 21 * onesTo s.dig m
    let stopped := m + 1 < s.len.toNat
    let aborts := stopped ∧ s.params.policy = .abort
    let c := driven s.dig ax ay m
    let after (t : State) (status : BitVec 8) (conv : List Event) : Prop :=
      PointMeans t p mc c ∧ SameRegs [.ax, .ay] s t ∧
      t = { s with
        regs := t.regs, cur := t.cur, cmdr := 0x05#8, dpos := BitVec.ofNat 16 (1 + m), lastd := last
        status := status, trace := s.trace ++ (romEvents .init ++ digitEvents s.dig m ++ conv), reply := .done }
    let pair (t : State) : Prop := Means t p mc .xa (c.x * (c.z ^ 2)⁻¹) ∧ Means t p mc .ya (c.y * (c.z ^ 3)⁻¹)
    (aborts → ∃ t, run n (issue 0x05 s) = .next t ∧ after t 0x06#8 [] ∧ SameRegs [.xa, .ya] s t) ∧
    (¬ aborts → last = 0x31#8 → c.z ≠ 0 →
      ∃ t, run (n + 7) (issue 0x05 s) = .next t ∧ after t (if stopped then 0x66#8 else 0x62#8) (romEvents .aff1) ∧
        pair t) ∧
    (¬ aborts → last = 0x30#8 → c.z ≠ 0 →
      ∃ t, run (n + 5) (issue 0x05 s) = .next t ∧ after t (if stopped then 0x26#8 else 0x22#8) (romEvents .aff0) ∧
        pair t) ∧
    (¬ aborts → last ≠ 0x31#8 → last ≠ 0x30#8 →
      ∃ t, run (n + 1) (issue 0x05 s) = .next t ∧ after t (if stopped then 0x0E#8 else 0x0A#8) [] ∧
        SameRegs [.xa, .ya] s t)

/-- The power-of-two property (R120): `SMUL` on a first symbol followed by `n` symbols `'0'` leaves the same five Point
registers as `n` commands `DBL` on the lifted base point. -/
def Obligations.PowerOfTwoIsRepeatedDoubling : Prop :=
  ∀ (s u : State) (p mc n x y : Nat) (last : Symbol), Quiet s → Quiet u → Configured s p mc → Configured u p mc →
    u.params = s.params → s.regs.ax = .value x → s.regs.ay = .value y → x < p → y < p →
    u.regs.x = .value x → u.regs.y = .value y → u.regs.z = .value (fpOne s.params p mc) →
    u.regs.z2 = .value (fpOne s.params p mc) → u.regs.z3 = .value (fpOne s.params p mc) →
    Processes s n last → s.len.toNat = n + 1 → (∀ i, 1 ≤ i → i ≤ n → Memory.read s.dig i = some 0x30#8) →
    ∃ t v, run (8 + 22 * n) (issue 0x03 s) = .next t ∧ DoubledTimes n u v ∧ SameRegs [.x, .y, .z, .z2, .z3] t v

/-- Correctness (R119, R140): for a base point `G` of odd prime order `n` on `y^2 = x^3 - 3x + b` and a well-formed
string of value `k < n`, command `KP` ends, without a model fault, with the affine coordinates of `k * G` in `XA`, `YA`
and `OUT_VALID` set. -/
def Obligations.ScalarMultiplicationIsCorrect : Prop :=
  ∀ (s : State) (p mc : Nat) [Fact p.Prime] (b ax ay : ZMod p) (n m : Nat) (last : Symbol)
    (hG : (WeierstrassCurve.mk 0 0 0 (-3) b : WeierstrassCurve (ZMod p)).toAffine.Nonsingular ax ay),
    Quiet s → Configured s p mc → Means s p mc .ax ax → Means s p mc .ay ay →
    Processes s m last → s.len.toNat = m + 1 → last = 0x30#8 ∨ last = 0x31#8 →
    n.Prime → n ≠ 2 → addOrderOf (WeierstrassCurve.Affine.Point.some ax ay hG) = n → scalarTo s.dig m < n →
    ∃ (k : Nat) (t : State) (x y : ZMod p)
      (h : (WeierstrassCurve.mk 0 0 0 (-3) b : WeierstrassCurve (ZMod p)).toAffine.Nonsingular x y),
      run k (issue 0x05 s) = .next t ∧ t.unit = .idle ∧ flag .done t = true ∧ flag .outValid t = true ∧
      Means t p mc .xa x ∧ Means t p mc .ya y ∧
      scalarTo s.dig m • WeierstrassCurve.Affine.Point.some ax ay hG = WeierstrassCurve.Affine.Point.some x y h

/-- Every command ends, in the finish or in a model fault, after at least its accept step (R144, R181): `DBL` and `ADD`
within 22 steps, `AFF` within 8, an illegal code at once, `SMUL` and `KP` within the accept step, the
`5 + 42*max(LEN-1, 0) + 6` micro-operations and the `LEN + 2` other steps of R144 (log entry 11 says where the rule's own
bound does not fit). -/
def Obligations.EveryCommandEnds : Prop :=
  ∀ (s : State) (c : Nat), Quiet s → c < 256 →
    ∃ n, 1 ≤ n ∧ n ≤ (if c = 1 ∨ c = 2 then 22 else if c = 4 then 8
        else if c = 3 ∨ c = 5 then 1 + (5 + 42 * (s.len.toNat - 1) + 6) + (s.len.toNat + 2) else 1) ∧
      ((∃ f, run n (issue c s) = .fault f) ∨
       ∃ t, run n (issue c s) = .next t ∧ t.unit = .idle ∧ flag .busy t = false ∧ flag .done t = true)

/-- Reset is the exit from a model fault, and replaces the whole state (R159, R170): where the step would fault with
the outside world doing `before` and no more, and it then resets the core, the next state is the reset state, with what
the outside world does after the reset still to come. That what stands before the reset is dropped is the model's
reading of "no later host transaction has a defined result until reset" (log entry 5). -/
def Obligations.ResetIsTheExitFromAModelFault : Prop :=
  ∀ (s : State) (f : Fault) (before rest : List Input), Input.reset ∉ before →
    step { s with inputs := before } = .fault f →
    step { s with inputs := before ++ .reset :: rest } = .next { State.resetWith s.params with inputs := rest }
end

