-- ==== Sys2Proof/Laws/State.lean ====
section
/-!
SUPPORT. What each named update of the state leaves in each field, by definition, so that no later proof unfolds an
update.
-/

namespace Sys2Proof.Laws

open Sys2Proof.Machine

section Fields
variable (s : State)

/-! ### `setFlag` -/

@[simp] theorem setFlag_params (f : Flag) (b : Bool) : (setFlag f b s).params = s.params := rfl
@[simp] theorem setFlag_regs (f : Flag) (b : Bool) : (setFlag f b s).regs = s.regs := rfl
@[simp] theorem setFlag_p (f : Flag) (b : Bool) : (setFlag f b s).p = s.p := rfl
@[simp] theorem setFlag_mc (f : Flag) (b : Bool) : (setFlag f b s).mc = s.mc := rfl
@[simp] theorem setFlag_dig (f : Flag) (b : Bool) : (setFlag f b s).dig = s.dig := rfl
@[simp] theorem setFlag_len (f : Flag) (b : Bool) : (setFlag f b s).len = s.len := rfl
@[simp] theorem setFlag_dpos (f : Flag) (b : Bool) : (setFlag f b s).dpos = s.dpos := rfl
@[simp] theorem setFlag_lastd (f : Flag) (b : Bool) : (setFlag f b s).lastd = s.lastd := rfl
@[simp] theorem setFlag_status (f : Flag) (b : Bool) : (setFlag f b s).status = putFlag s.status f b := rfl
@[simp] theorem setFlag_unit (f : Flag) (b : Bool) : (setFlag f b s).unit = s.unit := rfl
@[simp] theorem setFlag_upc (f : Flag) (b : Bool) : (setFlag f b s).upc = s.upc := rfl
@[simp] theorem setFlag_cmdr (f : Flag) (b : Bool) : (setFlag f b s).cmdr = s.cmdr := rfl
@[simp] theorem setFlag_cur (f : Flag) (b : Bool) : (setFlag f b s).cur = s.cur := rfl
@[simp] theorem setFlag_trace (f : Flag) (b : Bool) : (setFlag f b s).trace = s.trace := rfl
@[simp] theorem setFlag_inputs (f : Flag) (b : Bool) : (setFlag f b s).inputs = s.inputs := rfl
@[simp] theorem setFlag_reply (f : Flag) (b : Bool) : (setFlag f b s).reply = s.reply := rfl
@[simp] theorem setFlag_injected (f : Flag) (b : Bool) : (setFlag f b s).injected = s.injected := rfl

/-! ### `clearFlags` -/

@[simp] theorem clearFlags_params : (clearFlags s).params = s.params := rfl
@[simp] theorem clearFlags_regs : (clearFlags s).regs = s.regs := rfl
@[simp] theorem clearFlags_p : (clearFlags s).p = s.p := rfl
@[simp] theorem clearFlags_mc : (clearFlags s).mc = s.mc := rfl
@[simp] theorem clearFlags_dig : (clearFlags s).dig = s.dig := rfl
@[simp] theorem clearFlags_len : (clearFlags s).len = s.len := rfl
@[simp] theorem clearFlags_dpos : (clearFlags s).dpos = s.dpos := rfl
@[simp] theorem clearFlags_lastd : (clearFlags s).lastd = s.lastd := rfl
@[simp] theorem clearFlags_status : (clearFlags s).status = s.status &&& 0x81#8 := rfl
@[simp] theorem clearFlags_unit : (clearFlags s).unit = s.unit := rfl
@[simp] theorem clearFlags_upc : (clearFlags s).upc = s.upc := rfl
@[simp] theorem clearFlags_cmdr : (clearFlags s).cmdr = s.cmdr := rfl
@[simp] theorem clearFlags_cur : (clearFlags s).cur = s.cur := rfl
@[simp] theorem clearFlags_trace : (clearFlags s).trace = s.trace := rfl
@[simp] theorem clearFlags_inputs : (clearFlags s).inputs = s.inputs := rfl
@[simp] theorem clearFlags_reply : (clearFlags s).reply = s.reply := rfl
@[simp] theorem clearFlags_injected : (clearFlags s).injected = s.injected := rfl

/-! ### `putReg` -/

@[simp] theorem putReg_params (r : Reg) (v : Nat) : (putReg r v s).params = s.params := rfl
@[simp] theorem putReg_regs (r : Reg) (v : Nat) : (putReg r v s).regs = s.regs.set r (.value v) := rfl
@[simp] theorem putReg_p (r : Reg) (v : Nat) : (putReg r v s).p = s.p := rfl
@[simp] theorem putReg_mc (r : Reg) (v : Nat) : (putReg r v s).mc = s.mc := rfl
@[simp] theorem putReg_dig (r : Reg) (v : Nat) : (putReg r v s).dig = s.dig := rfl
@[simp] theorem putReg_len (r : Reg) (v : Nat) : (putReg r v s).len = s.len := rfl
@[simp] theorem putReg_dpos (r : Reg) (v : Nat) : (putReg r v s).dpos = s.dpos := rfl
@[simp] theorem putReg_lastd (r : Reg) (v : Nat) : (putReg r v s).lastd = s.lastd := rfl
@[simp] theorem putReg_status (r : Reg) (v : Nat) : (putReg r v s).status = s.status := rfl
@[simp] theorem putReg_unit (r : Reg) (v : Nat) : (putReg r v s).unit = s.unit := rfl
@[simp] theorem putReg_upc (r : Reg) (v : Nat) : (putReg r v s).upc = s.upc := rfl
@[simp] theorem putReg_cmdr (r : Reg) (v : Nat) : (putReg r v s).cmdr = s.cmdr := rfl
@[simp] theorem putReg_cur (r : Reg) (v : Nat) : (putReg r v s).cur = s.cur := rfl
@[simp] theorem putReg_trace (r : Reg) (v : Nat) : (putReg r v s).trace = s.trace := rfl
@[simp] theorem putReg_inputs (r : Reg) (v : Nat) : (putReg r v s).inputs = s.inputs := rfl
@[simp] theorem putReg_reply (r : Reg) (v : Nat) : (putReg r v s).reply = s.reply := rfl
@[simp] theorem putReg_injected (r : Reg) (v : Nat) : (putReg r v s).injected = s.injected := rfl

/-! ### `clearScratch` -/

@[simp] theorem clearScratch_params : (clearScratch s).params = s.params := rfl
@[simp] theorem clearScratch_regs : (clearScratch s).regs =
    { s.regs with r0 := .unwritten, r1 := .unwritten, r2 := .unwritten, r3 := .unwritten, t0 := .unwritten } := rfl
@[simp] theorem clearScratch_p : (clearScratch s).p = s.p := rfl
@[simp] theorem clearScratch_mc : (clearScratch s).mc = s.mc := rfl
@[simp] theorem clearScratch_dig : (clearScratch s).dig = s.dig := rfl
@[simp] theorem clearScratch_len : (clearScratch s).len = s.len := rfl
@[simp] theorem clearScratch_dpos : (clearScratch s).dpos = s.dpos := rfl
@[simp] theorem clearScratch_lastd : (clearScratch s).lastd = s.lastd := rfl
@[simp] theorem clearScratch_status : (clearScratch s).status = s.status := rfl
@[simp] theorem clearScratch_unit : (clearScratch s).unit = s.unit := rfl
@[simp] theorem clearScratch_upc : (clearScratch s).upc = s.upc := rfl
@[simp] theorem clearScratch_cmdr : (clearScratch s).cmdr = s.cmdr := rfl
@[simp] theorem clearScratch_cur : (clearScratch s).cur = s.cur := rfl
@[simp] theorem clearScratch_trace : (clearScratch s).trace = s.trace := rfl
@[simp] theorem clearScratch_inputs : (clearScratch s).inputs = s.inputs := rfl
@[simp] theorem clearScratch_reply : (clearScratch s).reply = s.reply := rfl
@[simp] theorem clearScratch_injected : (clearScratch s).injected = s.injected := rfl

/-! ### `setUnit` -/

@[simp] theorem setUnit_params (u : SeqUnit) : (setUnit u s).params = s.params := rfl
@[simp] theorem setUnit_regs (u : SeqUnit) : (setUnit u s).regs = s.regs := rfl
@[simp] theorem setUnit_p (u : SeqUnit) : (setUnit u s).p = s.p := rfl
@[simp] theorem setUnit_mc (u : SeqUnit) : (setUnit u s).mc = s.mc := rfl
@[simp] theorem setUnit_dig (u : SeqUnit) : (setUnit u s).dig = s.dig := rfl
@[simp] theorem setUnit_len (u : SeqUnit) : (setUnit u s).len = s.len := rfl
@[simp] theorem setUnit_dpos (u : SeqUnit) : (setUnit u s).dpos = s.dpos := rfl
@[simp] theorem setUnit_lastd (u : SeqUnit) : (setUnit u s).lastd = s.lastd := rfl
@[simp] theorem setUnit_status (u : SeqUnit) : (setUnit u s).status = s.status := rfl
@[simp] theorem setUnit_unit (u : SeqUnit) : (setUnit u s).unit = u := rfl
@[simp] theorem setUnit_upc (u : SeqUnit) : (setUnit u s).upc = s.upc := rfl
@[simp] theorem setUnit_cmdr (u : SeqUnit) : (setUnit u s).cmdr = s.cmdr := rfl
@[simp] theorem setUnit_cur (u : SeqUnit) : (setUnit u s).cur = s.cur := rfl
@[simp] theorem setUnit_trace (u : SeqUnit) : (setUnit u s).trace = s.trace := rfl
@[simp] theorem setUnit_inputs (u : SeqUnit) : (setUnit u s).inputs = s.inputs := rfl
@[simp] theorem setUnit_reply (u : SeqUnit) : (setUnit u s).reply = s.reply := rfl
@[simp] theorem setUnit_injected (u : SeqUnit) : (setUnit u s).injected = s.injected := rfl

/-! ### `setUpc` -/

@[simp] theorem setUpc_params (n : Nat) : (setUpc n s).params = s.params := rfl
@[simp] theorem setUpc_regs (n : Nat) : (setUpc n s).regs = s.regs := rfl
@[simp] theorem setUpc_p (n : Nat) : (setUpc n s).p = s.p := rfl
@[simp] theorem setUpc_mc (n : Nat) : (setUpc n s).mc = s.mc := rfl
@[simp] theorem setUpc_dig (n : Nat) : (setUpc n s).dig = s.dig := rfl
@[simp] theorem setUpc_len (n : Nat) : (setUpc n s).len = s.len := rfl
@[simp] theorem setUpc_dpos (n : Nat) : (setUpc n s).dpos = s.dpos := rfl
@[simp] theorem setUpc_lastd (n : Nat) : (setUpc n s).lastd = s.lastd := rfl
@[simp] theorem setUpc_status (n : Nat) : (setUpc n s).status = s.status := rfl
@[simp] theorem setUpc_unit (n : Nat) : (setUpc n s).unit = s.unit := rfl
@[simp] theorem setUpc_upc (n : Nat) : (setUpc n s).upc = n := rfl
@[simp] theorem setUpc_cmdr (n : Nat) : (setUpc n s).cmdr = s.cmdr := rfl
@[simp] theorem setUpc_cur (n : Nat) : (setUpc n s).cur = s.cur := rfl
@[simp] theorem setUpc_trace (n : Nat) : (setUpc n s).trace = s.trace := rfl
@[simp] theorem setUpc_inputs (n : Nat) : (setUpc n s).inputs = s.inputs := rfl
@[simp] theorem setUpc_reply (n : Nat) : (setUpc n s).reply = s.reply := rfl
@[simp] theorem setUpc_injected (n : Nat) : (setUpc n s).injected = s.injected := rfl

/-! ### `setDpos` -/

@[simp] theorem setDpos_params (i : BitVec 16) : (setDpos i s).params = s.params := rfl
@[simp] theorem setDpos_regs (i : BitVec 16) : (setDpos i s).regs = s.regs := rfl
@[simp] theorem setDpos_p (i : BitVec 16) : (setDpos i s).p = s.p := rfl
@[simp] theorem setDpos_mc (i : BitVec 16) : (setDpos i s).mc = s.mc := rfl
@[simp] theorem setDpos_dig (i : BitVec 16) : (setDpos i s).dig = s.dig := rfl
@[simp] theorem setDpos_len (i : BitVec 16) : (setDpos i s).len = s.len := rfl
@[simp] theorem setDpos_dpos (i : BitVec 16) : (setDpos i s).dpos = i := rfl
@[simp] theorem setDpos_lastd (i : BitVec 16) : (setDpos i s).lastd = s.lastd := rfl
@[simp] theorem setDpos_status (i : BitVec 16) : (setDpos i s).status = s.status := rfl
@[simp] theorem setDpos_unit (i : BitVec 16) : (setDpos i s).unit = s.unit := rfl
@[simp] theorem setDpos_upc (i : BitVec 16) : (setDpos i s).upc = s.upc := rfl
@[simp] theorem setDpos_cmdr (i : BitVec 16) : (setDpos i s).cmdr = s.cmdr := rfl
@[simp] theorem setDpos_cur (i : BitVec 16) : (setDpos i s).cur = s.cur := rfl
@[simp] theorem setDpos_trace (i : BitVec 16) : (setDpos i s).trace = s.trace := rfl
@[simp] theorem setDpos_inputs (i : BitVec 16) : (setDpos i s).inputs = s.inputs := rfl
@[simp] theorem setDpos_reply (i : BitVec 16) : (setDpos i s).reply = s.reply := rfl
@[simp] theorem setDpos_injected (i : BitVec 16) : (setDpos i s).injected = s.injected := rfl

/-! ### `setLastd` -/

@[simp] theorem setLastd_params (c : Symbol) : (setLastd c s).params = s.params := rfl
@[simp] theorem setLastd_regs (c : Symbol) : (setLastd c s).regs = s.regs := rfl
@[simp] theorem setLastd_p (c : Symbol) : (setLastd c s).p = s.p := rfl
@[simp] theorem setLastd_mc (c : Symbol) : (setLastd c s).mc = s.mc := rfl
@[simp] theorem setLastd_dig (c : Symbol) : (setLastd c s).dig = s.dig := rfl
@[simp] theorem setLastd_len (c : Symbol) : (setLastd c s).len = s.len := rfl
@[simp] theorem setLastd_dpos (c : Symbol) : (setLastd c s).dpos = s.dpos := rfl
@[simp] theorem setLastd_lastd (c : Symbol) : (setLastd c s).lastd = c := rfl
@[simp] theorem setLastd_status (c : Symbol) : (setLastd c s).status = s.status := rfl
@[simp] theorem setLastd_unit (c : Symbol) : (setLastd c s).unit = s.unit := rfl
@[simp] theorem setLastd_upc (c : Symbol) : (setLastd c s).upc = s.upc := rfl
@[simp] theorem setLastd_cmdr (c : Symbol) : (setLastd c s).cmdr = s.cmdr := rfl
@[simp] theorem setLastd_cur (c : Symbol) : (setLastd c s).cur = s.cur := rfl
@[simp] theorem setLastd_trace (c : Symbol) : (setLastd c s).trace = s.trace := rfl
@[simp] theorem setLastd_inputs (c : Symbol) : (setLastd c s).inputs = s.inputs := rfl
@[simp] theorem setLastd_reply (c : Symbol) : (setLastd c s).reply = s.reply := rfl
@[simp] theorem setLastd_injected (c : Symbol) : (setLastd c s).injected = s.injected := rfl

/-! ### `setCur` -/

@[simp] theorem setCur_params (c : Symbol) : (setCur c s).params = s.params := rfl
@[simp] theorem setCur_regs (c : Symbol) : (setCur c s).regs = s.regs := rfl
@[simp] theorem setCur_p (c : Symbol) : (setCur c s).p = s.p := rfl
@[simp] theorem setCur_mc (c : Symbol) : (setCur c s).mc = s.mc := rfl
@[simp] theorem setCur_dig (c : Symbol) : (setCur c s).dig = s.dig := rfl
@[simp] theorem setCur_len (c : Symbol) : (setCur c s).len = s.len := rfl
@[simp] theorem setCur_dpos (c : Symbol) : (setCur c s).dpos = s.dpos := rfl
@[simp] theorem setCur_lastd (c : Symbol) : (setCur c s).lastd = s.lastd := rfl
@[simp] theorem setCur_status (c : Symbol) : (setCur c s).status = s.status := rfl
@[simp] theorem setCur_unit (c : Symbol) : (setCur c s).unit = s.unit := rfl
@[simp] theorem setCur_upc (c : Symbol) : (setCur c s).upc = s.upc := rfl
@[simp] theorem setCur_cmdr (c : Symbol) : (setCur c s).cmdr = s.cmdr := rfl
@[simp] theorem setCur_cur (c : Symbol) : (setCur c s).cur = c := rfl
@[simp] theorem setCur_trace (c : Symbol) : (setCur c s).trace = s.trace := rfl
@[simp] theorem setCur_inputs (c : Symbol) : (setCur c s).inputs = s.inputs := rfl
@[simp] theorem setCur_reply (c : Symbol) : (setCur c s).reply = s.reply := rfl
@[simp] theorem setCur_injected (c : Symbol) : (setCur c s).injected = s.injected := rfl

/-! ### `setCmdr` -/

@[simp] theorem setCmdr_params (c : Code) : (setCmdr c s).params = s.params := rfl
@[simp] theorem setCmdr_regs (c : Code) : (setCmdr c s).regs = s.regs := rfl
@[simp] theorem setCmdr_p (c : Code) : (setCmdr c s).p = s.p := rfl
@[simp] theorem setCmdr_mc (c : Code) : (setCmdr c s).mc = s.mc := rfl
@[simp] theorem setCmdr_dig (c : Code) : (setCmdr c s).dig = s.dig := rfl
@[simp] theorem setCmdr_len (c : Code) : (setCmdr c s).len = s.len := rfl
@[simp] theorem setCmdr_dpos (c : Code) : (setCmdr c s).dpos = s.dpos := rfl
@[simp] theorem setCmdr_lastd (c : Code) : (setCmdr c s).lastd = s.lastd := rfl
@[simp] theorem setCmdr_status (c : Code) : (setCmdr c s).status = s.status := rfl
@[simp] theorem setCmdr_unit (c : Code) : (setCmdr c s).unit = s.unit := rfl
@[simp] theorem setCmdr_upc (c : Code) : (setCmdr c s).upc = s.upc := rfl
@[simp] theorem setCmdr_cmdr (c : Code) : (setCmdr c s).cmdr = c := rfl
@[simp] theorem setCmdr_cur (c : Code) : (setCmdr c s).cur = s.cur := rfl
@[simp] theorem setCmdr_trace (c : Code) : (setCmdr c s).trace = s.trace := rfl
@[simp] theorem setCmdr_inputs (c : Code) : (setCmdr c s).inputs = s.inputs := rfl
@[simp] theorem setCmdr_reply (c : Code) : (setCmdr c s).reply = s.reply := rfl
@[simp] theorem setCmdr_injected (c : Code) : (setCmdr c s).injected = s.injected := rfl

/-! ### `emit` -/

@[simp] theorem emit_params (e : Event) : (emit e s).params = s.params := rfl
@[simp] theorem emit_regs (e : Event) : (emit e s).regs = s.regs := rfl
@[simp] theorem emit_p (e : Event) : (emit e s).p = s.p := rfl
@[simp] theorem emit_mc (e : Event) : (emit e s).mc = s.mc := rfl
@[simp] theorem emit_dig (e : Event) : (emit e s).dig = s.dig := rfl
@[simp] theorem emit_len (e : Event) : (emit e s).len = s.len := rfl
@[simp] theorem emit_dpos (e : Event) : (emit e s).dpos = s.dpos := rfl
@[simp] theorem emit_lastd (e : Event) : (emit e s).lastd = s.lastd := rfl
@[simp] theorem emit_status (e : Event) : (emit e s).status = s.status := rfl
@[simp] theorem emit_unit (e : Event) : (emit e s).unit = s.unit := rfl
@[simp] theorem emit_upc (e : Event) : (emit e s).upc = s.upc := rfl
@[simp] theorem emit_cmdr (e : Event) : (emit e s).cmdr = s.cmdr := rfl
@[simp] theorem emit_cur (e : Event) : (emit e s).cur = s.cur := rfl
@[simp] theorem emit_trace (e : Event) : (emit e s).trace = s.trace ++ [e] := rfl
@[simp] theorem emit_inputs (e : Event) : (emit e s).inputs = s.inputs := rfl
@[simp] theorem emit_reply (e : Event) : (emit e s).reply = s.reply := rfl
@[simp] theorem emit_injected (e : Event) : (emit e s).injected = s.injected := rfl

/-! ### `answer` -/

@[simp] theorem answer_params (r : Reply) : (answer r s).params = s.params := rfl
@[simp] theorem answer_regs (r : Reply) : (answer r s).regs = s.regs := rfl
@[simp] theorem answer_p (r : Reply) : (answer r s).p = s.p := rfl
@[simp] theorem answer_mc (r : Reply) : (answer r s).mc = s.mc := rfl
@[simp] theorem answer_dig (r : Reply) : (answer r s).dig = s.dig := rfl
@[simp] theorem answer_len (r : Reply) : (answer r s).len = s.len := rfl
@[simp] theorem answer_dpos (r : Reply) : (answer r s).dpos = s.dpos := rfl
@[simp] theorem answer_lastd (r : Reply) : (answer r s).lastd = s.lastd := rfl
@[simp] theorem answer_status (r : Reply) : (answer r s).status = s.status := rfl
@[simp] theorem answer_unit (r : Reply) : (answer r s).unit = s.unit := rfl
@[simp] theorem answer_upc (r : Reply) : (answer r s).upc = s.upc := rfl
@[simp] theorem answer_cmdr (r : Reply) : (answer r s).cmdr = s.cmdr := rfl
@[simp] theorem answer_cur (r : Reply) : (answer r s).cur = s.cur := rfl
@[simp] theorem answer_trace (r : Reply) : (answer r s).trace = s.trace := rfl
@[simp] theorem answer_inputs (r : Reply) : (answer r s).inputs = s.inputs := rfl
@[simp] theorem answer_reply (r : Reply) : (answer r s).reply = r := rfl
@[simp] theorem answer_injected (r : Reply) : (answer r s).injected = s.injected := rfl

/-! ### `finish` -/

@[simp] theorem finish_params : (finish s).params = s.params := rfl
@[simp] theorem finish_regs : (finish s).regs = s.regs := rfl
@[simp] theorem finish_p : (finish s).p = s.p := rfl
@[simp] theorem finish_mc : (finish s).mc = s.mc := rfl
@[simp] theorem finish_dig : (finish s).dig = s.dig := rfl
@[simp] theorem finish_len : (finish s).len = s.len := rfl
@[simp] theorem finish_dpos : (finish s).dpos = s.dpos := rfl
@[simp] theorem finish_lastd : (finish s).lastd = s.lastd := rfl
@[simp] theorem finish_status : (finish s).status = putFlag (putFlag s.status .busy false) .done true := rfl
@[simp] theorem finish_unit : (finish s).unit = .idle := rfl
@[simp] theorem finish_upc : (finish s).upc = 0 := rfl
@[simp] theorem finish_cmdr : (finish s).cmdr = s.cmdr := rfl
@[simp] theorem finish_cur : (finish s).cur = s.cur := rfl
@[simp] theorem finish_trace : (finish s).trace = s.trace := rfl
@[simp] theorem finish_inputs : (finish s).inputs = s.inputs := rfl
@[simp] theorem finish_reply : (finish s).reply = s.reply := rfl
@[simp] theorem finish_injected : (finish s).injected = s.injected := rfl

/-! ### `enterPrimitive` -/

@[simp] theorem enterPrimitive_params (u : SeqUnit) : (enterPrimitive u s).params = s.params := rfl
@[simp] theorem enterPrimitive_regs (u : SeqUnit) : (enterPrimitive u s).regs = (clearScratch s).regs := rfl
@[simp] theorem enterPrimitive_p (u : SeqUnit) : (enterPrimitive u s).p = s.p := rfl
@[simp] theorem enterPrimitive_mc (u : SeqUnit) : (enterPrimitive u s).mc = s.mc := rfl
@[simp] theorem enterPrimitive_dig (u : SeqUnit) : (enterPrimitive u s).dig = s.dig := rfl
@[simp] theorem enterPrimitive_len (u : SeqUnit) : (enterPrimitive u s).len = s.len := rfl
@[simp] theorem enterPrimitive_dpos (u : SeqUnit) : (enterPrimitive u s).dpos = s.dpos := rfl
@[simp] theorem enterPrimitive_lastd (u : SeqUnit) : (enterPrimitive u s).lastd = s.lastd := rfl
@[simp] theorem enterPrimitive_status (u : SeqUnit) : (enterPrimitive u s).status = s.status := rfl
@[simp] theorem enterPrimitive_unit (u : SeqUnit) : (enterPrimitive u s).unit = u := rfl
@[simp] theorem enterPrimitive_upc (u : SeqUnit) : (enterPrimitive u s).upc = 0 := rfl
@[simp] theorem enterPrimitive_cmdr (u : SeqUnit) : (enterPrimitive u s).cmdr = s.cmdr := rfl
@[simp] theorem enterPrimitive_cur (u : SeqUnit) : (enterPrimitive u s).cur = s.cur := rfl
@[simp] theorem enterPrimitive_trace (u : SeqUnit) : (enterPrimitive u s).trace = s.trace := rfl
@[simp] theorem enterPrimitive_inputs (u : SeqUnit) : (enterPrimitive u s).inputs = s.inputs := rfl
@[simp] theorem enterPrimitive_reply (u : SeqUnit) : (enterPrimitive u s).reply = s.reply := rfl
@[simp] theorem enterPrimitive_injected (u : SeqUnit) : (enterPrimitive u s).injected = s.injected := rfl

end Fields

/-! ### The flags of an update that is not about flags -/

@[simp] theorem flag_putReg (g : Flag) (r : Reg) (v : Nat) (s : State) : flag g (putReg r v s) = flag g s := rfl
@[simp] theorem flag_clearScratch (g : Flag) (s : State) : flag g (clearScratch s) = flag g s := rfl
@[simp] theorem flag_setUnit (g : Flag) (u : SeqUnit) (s : State) : flag g (setUnit u s) = flag g s := rfl
@[simp] theorem flag_setUpc (g : Flag) (n : Nat) (s : State) : flag g (setUpc n s) = flag g s := rfl
@[simp] theorem flag_setDpos (g : Flag) (i : BitVec 16) (s : State) : flag g (setDpos i s) = flag g s := rfl
@[simp] theorem flag_setLastd (g : Flag) (c : Symbol) (s : State) : flag g (setLastd c s) = flag g s := rfl
@[simp] theorem flag_setCur (g : Flag) (c : Symbol) (s : State) : flag g (setCur c s) = flag g s := rfl
@[simp] theorem flag_setCmdr (g : Flag) (c : Code) (s : State) : flag g (setCmdr c s) = flag g s := rfl
@[simp] theorem flag_emit (g : Flag) (e : Event) (s : State) : flag g (emit e s) = flag g s := rfl
@[simp] theorem flag_answer (g : Flag) (r : Reply) (s : State) : flag g (answer r s) = flag g s := rfl
@[simp] theorem flag_enterPrimitive (g : Flag) (u : SeqUnit) (s : State) : flag g (enterPrimitive u s) = flag g s := rfl

end Sys2Proof.Laws
end

