-- ==== Sys2Proof/Laws/Flags.lean ====
section
/-!
SUPPORT. The fields of `STATUS` do not overlap: reading a field after setting one, and after the accept step's clear.
-/

namespace Sys2Proof.Laws

open Sys2Proof.Machine

@[simp] theorem getFlag_putFlag (st : BitVec 8) (f g : Flag) (b : Bool) :
    getFlag (putFlag st f b) g = if f = g then b else getFlag st g := by
  cases f <;> cases g <;> cases b <;> simp [getFlag, putFlag, flagMask, flagBit]

@[simp] theorem flag_setFlag (f g : Flag) (b : Bool) (s : State) :
    flag g (setFlag f b s) = if f = g then b else flag g s :=
  getFlag_putFlag s.status f g b

/-- No field of `STATUS` is bit 7 (R30). -/
@[simp] theorem putFlag_bit7 (st : BitVec 8) (f : Flag) (b : Bool) : (putFlag st f b)[7] = st[7] := by
  cases f <;> cases b <;> simp [putFlag, flagMask, flagBit]

/-- The accept step's clear leaves `BUSY` and nothing else (R135). -/
@[simp] theorem flag_clearFlags (g : Flag) (s : State) :
    flag g (clearFlags s) = if g = .busy then flag g s else false := by
  cases g <;> simp [flag, getFlag, flagBit]

@[simp] theorem flag_finish (g : Flag) (s : State) :
    flag g (finish s) = if g = .done then true else if g = .busy then false else flag g s := by
  cases g <;> simp [finish]

@[simp] theorem isBusy_eq (s : State) : isBusy s = flag .busy s := rfl

/-- A `STATUS` byte is its seven fields and its reserved bit. -/
theorem status_ext {a b : BitVec 8} (bit7 : a.getLsbD 7 = b.getLsbD 7) (h : ∀ f, getFlag a f = getFlag b f) :
    a = b := by
  apply BitVec.eq_of_getLsbD_eq
  intro i hi
  have h0 := h .busy; have h1 := h .done; have h2 := h .errDigit; have h3 := h .errNorm
  have h4 := h .errCmd; have h5 := h .outValid; have h6 := h .branch
  simp only [getFlag, flagBit] at h0 h1 h2 h3 h4 h5 h6
  interval_cases i <;> assumption

end Sys2Proof.Laws
end

