-- ==== Sys2Proof/Laws/Regs.lean ====
section
/-!
SUPPORT. The register file: reading an entry after writing one (R22: "no field register aliases another"), and after
the invalidation of the scratch registers (R16).
-/

namespace Sys2Proof.Laws

open Sys2Proof.Machine

@[simp] theorem RegFile_get_set (f : RegFile) (r q : Reg) (c : Content) :
    (f.set r c).get q = if q = r ∧ r ≠ .one then c else f.get q := by
  cases r <;> cases q <;> rfl

theorem RegFile_get_set_same (f : RegFile) {r : Reg} (c : Content) (h : r ≠ .one) : (f.set r c).get r = c := by
  simp [h]

theorem RegFile_get_set_other (f : RegFile) {r q : Reg} (c : Content) (h : q ≠ r) :
    (f.set r c).get q = f.get q := by simp [h]

/-- A legal destination is a register that holds what is written to it (R60). -/
theorem legalDst_ne_one {r : Reg} (h : r.legalDst = true) : r ≠ .one := by rintro rfl; cases h

@[simp] theorem clearScratch_get (s : State) (q : Reg) :
    (clearScratch s).regs.get q = if q.isScratch then .unwritten else s.regs.get q := by
  cases q <;> rfl

@[simp] theorem RegFile_unwritten_get (q : Reg) : RegFile.unwritten.get q = .unwritten := by
  cases q <;> rfl

/-- A register file is what its 14 entries hold. -/
theorem RegFile_ext {f g : RegFile} (h : ∀ r, f.get r = g.get r) : f = g := by
  obtain ⟨a1, a2, a3, a4, a5, a6, a7, a8, a9, a10, a11, a12, a13, a14⟩ := f
  obtain ⟨b1, b2, b3, b4, b5, b6, b7, b8, b9, b10, b11, b12, b13, b14⟩ := g
  have e1 := h .x; have e2 := h .y; have e3 := h .z; have e4 := h .z2; have e5 := h .z3
  have e6 := h .r0; have e7 := h .r1; have e8 := h .r2; have e9 := h .r3; have e10 := h .t0
  have e11 := h .ax; have e12 := h .ay; have e13 := h .xa; have e14 := h .ya
  simp only [RegFile.get] at e1 e2 e3 e4 e5 e6 e7 e8 e9 e10 e11 e12 e13 e14
  subst_vars
  rfl

end Sys2Proof.Laws
end

