-- ==== Sys2Proof/Laws/Operands.lean ====
section
/-!
SUPPORT. What an operand read can answer: the value and why it is one, or which fault and why.
-/

namespace Sys2Proof.Laws

open Sys2Proof.Machine

theorem readModulus_ok {s : State} {p : Nat} : readModulus s = .ok p ↔ s.p = .value p := by
  unfold readModulus; split <;> simp_all

theorem readModulus_error {s : State} {f : Fault} :
    readModulus s = .error f ↔ s.p = .unwritten ∧ f = .unwrittenRead .modulus := by
  unfold readModulus; split <;> simp_all [eq_comm]

theorem readConstant_ok {s : State} {mc : Nat} : readConstant s = .ok mc ↔ s.mc = .value mc := by
  unfold readConstant; split <;> simp_all

theorem readConstant_error {s : State} {f : Fault} :
    readConstant s = .error f ↔ s.mc = .unwritten ∧ f = .unwrittenRead .constant := by
  unfold readConstant; split <;> simp_all [eq_comm]

/-- A register other than `ONE` names its entry of the file. -/
theorem registerValue_of_ne_one {r : Reg} (h : r ≠ .one) (s : State) :
    registerValue r s = match s.regs.get r with
      | .unwritten => .error (.unwrittenRead (.reg r))
      | .value v => .ok v := by
  cases r <;> first | exact absurd rfl h | rfl

/-- `ONE` names `FP.one(P, MC)` once both are written (R19). -/
theorem registerValue_one {s : State} {p mc : Nat} (hp : s.p = .value p) (hmc : s.mc = .value mc) :
    registerValue .one s = .ok (fpOne s.params p mc) := by
  simp [registerValue, readModulus, readConstant, hp, hmc]

/-- A read answers a value exactly when the register names it, `P` is written, and the value is canonical. -/
theorem readReg_ok {r : Reg} {s : State} {v : Nat} :
    readReg r s = .ok v ↔ registerValue r s = .ok v ∧ ∃ p, s.p = .value p ∧ v < p := by
  unfold readReg
  cases hr : registerValue r s with
  | error f => simp
  | ok w =>
    cases hp : readModulus s with
    | error f =>
      obtain ⟨hp, -⟩ := readModulus_error.mp hp
      simp [hp]
    | ok p =>
      rw [readModulus_ok] at hp
      simp only [hp, Except.ok.injEq, Content.value.injEq, exists_eq_left']
      split
      · simp only [reduceCtorEq, false_iff]; rintro ⟨rfl, h⟩; omega
      · simp only [Except.ok.injEq]; constructor
        · rintro rfl; exact ⟨rfl, by omega⟩
        · exact fun h => h.1

/-- A written, canonical register is read. -/
theorem readReg_of_value {r : Reg} {s : State} {v p : Nat} (h1 : r ≠ .one) (hv : s.regs.get r = .value v)
    (hp : s.p = .value p) (hlt : v < p) : readReg r s = .ok v :=
  readReg_ok.mpr ⟨by rw [registerValue_of_ne_one h1, hv], p, hp, hlt⟩

/-- A read of a register of the file, the other way. -/
theorem readReg_ok_value {r : Reg} {s : State} {v : Nat} (h1 : r ≠ .one) (h : readReg r s = .ok v) :
    s.regs.get r = .value v := by
  obtain ⟨hv, -⟩ := readReg_ok.mp h
  rw [registerValue_of_ne_one h1] at hv
  split at hv <;> simp_all

/-- The faults of an operand read (R160, R161). -/
theorem readReg_error {r : Reg} {s : State} {f : Fault} (h : readReg r s = .error f) :
    (r ≠ .one ∧ s.regs.get r = .unwritten ∧ f = .unwrittenRead (.reg r)) ∨
    (s.p = .unwritten ∧ f = .unwrittenRead .modulus) ∨
    (r = .one ∧ s.mc = .unwritten ∧ f = .unwrittenRead .constant) ∨
    (∃ p v, s.p = .value p ∧ registerValue r s = .ok v ∧ p ≤ v ∧ f = .nonCanonical r) := by
  unfold readReg at h
  split at h
  · rename_i g hg
    cases h
    by_cases h1 : r = .one
    · subst h1
      simp only [registerValue] at hg
      split at hg
      · rename_i hm; cases hg; exact .inr (.inl (readModulus_error.mp hm))
      · split at hg
        · rename_i hc; cases hg; exact .inr (.inr (.inl ⟨rfl, readConstant_error.mp hc⟩))
        · cases hg
    · rw [registerValue_of_ne_one h1] at hg
      split at hg
      · cases hg; exact .inl ⟨h1, by assumption, rfl⟩
      · cases hg
  · rename_i v hv
    split at h
    · rename_i hm; cases h; exact .inr (.inl (readModulus_error.mp hm))
    · rename_i p hp
      split at h
      · cases h; exact .inr (.inr (.inr ⟨p, v, readModulus_ok.mp hp, hv, by assumption, rfl⟩))
      · cases h

/-- The field port answers a value for every operation but `FINV` of 0 (R78 to R82). -/
theorem fieldPort_ok {c : Params} {k : OpKind} {a b p mc v : Nat} :
    fieldPort c k a b p mc = .ok v ↔
      (k = .mul ∧ v = fpMul c p mc a b) ∨ (k = .add ∧ v = fpAdd p a b) ∨ (k = .sub ∧ v = fpSub p a b) ∨
      (k = .copy ∧ v = a) ∨ (k = .inv ∧ a ≠ 0 ∧ v = fpInv c p a) := by
  by_cases h : a = 0 <;> cases k <;> simp [fieldPort, fpCopy, h, eq_comm]

theorem fieldPort_error {c : Params} {k : OpKind} {a b p mc : Nat} {f : Fault} :
    fieldPort c k a b p mc = .error f ↔ k = .inv ∧ a = 0 ∧ f = .finvZero := by
  by_cases h : a = 0 <;> cases k <;> simp [fieldPort, h, eq_comm]

/-- A micro-operation gets a result exactly when its operands are read, `P` and `MC` are written, and the port
answers. -/
theorem microResult_ok {k : OpKind} {sa : Reg} {sb : Option Reg} {s : State} {v : Nat} :
    microResult k sa sb s = .ok v ↔
      ∃ a b p mc, readReg sa s = .ok a ∧ readSecond sb s = .ok b ∧ s.p = .value p ∧ s.mc = .value mc ∧
        fieldPort s.params k a b p mc = .ok v := by
  unfold microResult
  cases hA : readReg sa s with
  | error f => simp
  | ok a =>
    cases hB : readSecond sb s with
    | error f => simp
    | ok b =>
      cases hP : readModulus s with
      | error f => simp [(readModulus_error.mp hP).1]
      | ok p =>
        cases hM : readConstant s with
        | error f => simp [(readConstant_error.mp hM).1]
        | ok mc => simp [readModulus_ok.mp hP, readConstant_ok.mp hM]

/-- The faults of a micro-operation, in the order of R156. -/
theorem microResult_error {k : OpKind} {sa : Reg} {sb : Option Reg} {s : State} {f : Fault}
    (h : microResult k sa sb s = .error f) :
    readReg sa s = .error f ∨
    (∃ a, readReg sa s = .ok a ∧ readSecond sb s = .error f) ∨
    (∃ a, readReg sa s = .ok a ∧ s.mc = .unwritten ∧ f = .unwrittenRead .constant) ∨
    (readReg sa s = .ok 0 ∧ k = .inv ∧ f = .finvZero) := by
  unfold microResult at h
  split at h
  · rename_i hA; cases h; exact .inl hA
  · rename_i a hA
    split at h
    · rename_i hB; cases h; exact .inr (.inl ⟨a, hA, hB⟩)
    · split at h
      · rename_i hP
        obtain ⟨-, p, hp, -⟩ := readReg_ok.mp hA
        simp [(readModulus_error.mp hP).1] at hp
      · split at h
        · rename_i hM
          cases h
          obtain ⟨h1, h2⟩ := readConstant_error.mp hM
          exact .inr (.inr (.inl ⟨a, hA, h1, h2⟩))
        · obtain ⟨h1, h2, h3⟩ := fieldPort_error.mp h
          subst h2
          exact .inr (.inr (.inr ⟨hA, h1, h3⟩))

end Sys2Proof.Laws
end

