-- ==== Sys2Proof/Laws/Commands.lean ====
section
/-!
SUPPORT. All that the accept step of a command can do (R135, R161).
-/

namespace Sys2Proof.Laws

open Sys2Proof.Machine

/-- The modulus check passes exactly when `P` and `MC` are written and `P` is good (R161). -/
theorem checkModulus_none {s : State} :
    checkModulus s = none ↔ ∃ p mc, s.p = .value p ∧ s.mc = .value mc ∧ goodModulus s.params p = true := by
  unfold checkModulus
  cases hp : readModulus s with
  | error f => simp [(readModulus_error.mp hp).1]
  | ok p =>
    cases hm : readConstant s with
    | error f => simp [(readConstant_error.mp hm).1]
    | ok mc => simp [readModulus_ok.mp hp, readConstant_ok.mp hm]

/-- The driver's check is that and `LEN <= NDIG` (R161). -/
theorem checkDriver_none {s : State} :
    checkDriver s = none ↔ checkModulus s = none ∧ s.len.toNat ≤ s.params.ndig := by
  unfold checkDriver
  cases checkModulus s <;> simp

/-- The faults of the modulus check, in its order (R161). -/
theorem checkModulus_some {s : State} {f : Fault} (h : checkModulus s = some f) :
    (s.p = .unwritten ∧ f = .unwrittenRead .modulus) ∨
    (s.p ≠ .unwritten ∧ s.mc = .unwritten ∧ f = .unwrittenRead .constant) ∨
    (∃ p, s.p = .value p ∧ s.mc ≠ .unwritten ∧ goodModulus s.params p = false ∧ f = .badModulus p) := by
  unfold checkModulus at h
  cases hp : readModulus s with
  | error g =>
    rw [hp] at h; cases h
    exact .inl (readModulus_error.mp hp)
  | ok p =>
    rw [hp] at h
    have hp' := readModulus_ok.mp hp
    cases hm : readConstant s with
    | error g =>
      rw [hm] at h; cases h
      exact .inr (.inl ⟨by simp [hp'], readConstant_error.mp hm⟩)
    | ok mc =>
      rw [hm] at h
      have hm' := readConstant_ok.mp hm
      simp only [ite_eq_iff, reduceCtorEq, and_false, Option.some.injEq, false_or] at h
      exact .inr (.inr ⟨p, hp', by simp [hm'], by simpa using h.1, h.2.symm⟩)

theorem checkDriver_some {s : State} {f : Fault} (h : checkDriver s = some f) :
    checkModulus s = some f ∨ (checkModulus s = none ∧ s.params.ndig < s.len.toNat ∧ f = .lenOutOfRange s.len) := by
  unfold checkDriver at h
  cases hc : checkModulus s with
  | some g => rw [hc] at h; cases h; exact .inl rfl
  | none =>
    rw [hc] at h
    simp only [ite_eq_iff, reduceCtorEq, and_false, Option.some.injEq, or_false] at h
    exact .inr ⟨rfl, h.1, h.2.symm⟩

section Fields
variable (c : Code) (s : State)
@[simp] theorem takeCommand_params : (takeCommand c s).params = s.params := rfl
@[simp] theorem takeCommand_regs : (takeCommand c s).regs = s.regs := rfl
@[simp] theorem takeCommand_p : (takeCommand c s).p = s.p := rfl
@[simp] theorem takeCommand_mc : (takeCommand c s).mc = s.mc := rfl
@[simp] theorem takeCommand_dig : (takeCommand c s).dig = s.dig := rfl
@[simp] theorem takeCommand_len : (takeCommand c s).len = s.len := rfl
@[simp] theorem takeCommand_dpos : (takeCommand c s).dpos = s.dpos := rfl
@[simp] theorem takeCommand_lastd : (takeCommand c s).lastd = s.lastd := rfl
@[simp] theorem takeCommand_status : (takeCommand c s).status = s.status &&& 0x81#8 := rfl
@[simp] theorem takeCommand_unit : (takeCommand c s).unit = s.unit := rfl
@[simp] theorem takeCommand_upc : (takeCommand c s).upc = s.upc := rfl
@[simp] theorem takeCommand_cmdr : (takeCommand c s).cmdr = c := rfl
@[simp] theorem takeCommand_cur : (takeCommand c s).cur = s.cur := rfl
@[simp] theorem takeCommand_trace : (takeCommand c s).trace = s.trace := rfl
@[simp] theorem takeCommand_inputs : (takeCommand c s).inputs = s.inputs := rfl
@[simp] theorem takeCommand_reply : (takeCommand c s).reply = .done := rfl
@[simp] theorem takeCommand_injected : (takeCommand c s).injected = s.injected := rfl
@[simp] theorem flag_takeCommand (g : Flag) :
    flag g (takeCommand c s) = if g = .busy then flag g s else false := flag_clearFlags g s
end Fields

/-- All the accept step of a legal command can answer when it answers a state: refused while busy, or its check passed
and its unit entered. -/
theorem accept_next {c : Code} {check : State → Option Fault} {enter : State → State} {s t : State} :
    accept c check enter s = .next t ↔
      (flag .busy s = true ∧ t = answer .refused s) ∨
      (flag .busy s = false ∧ check (takeCommand c s) = none ∧
        t = enter (setFlag .busy true (takeCommand c s))) := by
  unfold accept
  rw [isBusy_eq]
  cases hb : flag .busy s with
  | true => simp [eq_comm]
  | false => cases hc : check (takeCommand c s) <;> simp [eq_comm]

theorem accept_fault {c : Code} {check : State → Option Fault} {enter : State → State} {s : State} {f : Fault} :
    accept c check enter s = .fault f ↔ flag .busy s = false ∧ check (takeCommand c s) = some f := by
  unfold accept
  rw [isBusy_eq]
  cases hb : flag .busy s with
  | true => simp
  | false => cases hc : check (takeCommand c s) <;> simp

theorem execCmdIllegal_next {c : Code} {s t : State} :
    execCmdIllegal c s = .next t ↔
      (flag .busy s = true ∧ t = answer .refused s) ∨
      (flag .busy s = false ∧ t = raiseError .illegalCommand (takeCommand c s)) := by
  unfold execCmdIllegal
  rw [isBusy_eq]
  cases hb : flag .busy s <;> simp [eq_comm]

end Sys2Proof.Laws
end

