-- ==== Sys2Proof/Laws/Dispatch.lean ====
section
/-!
SUPPORT. The dispatch, one equation per constructor, so that no proof unfolds `exec` itself.
-/

namespace Sys2Proof.Laws

open Sys2Proof.Machine

section Arms
variable (s : State)
@[simp] theorem exec_fmul (dst sa sb : Reg) : exec (.fmul dst sa sb) s = execFmul dst sa sb s := rfl
@[simp] theorem exec_fadd (dst sa sb : Reg) : exec (.fadd dst sa sb) s = execFadd dst sa sb s := rfl
@[simp] theorem exec_fsub (dst sa sb : Reg) : exec (.fsub dst sa sb) s = execFsub dst sa sb s := rfl
@[simp] theorem exec_fcpy (dst sa : Reg) : exec (.fcpy dst sa) s = execFcpy dst sa s := rfl
@[simp] theorem exec_finv (dst sa : Reg) : exec (.finv dst sa) s = execFinv dst sa s := rfl
@[simp] theorem exec_reservedOp (word : MicroWord) : exec (.reservedOp word) s = execReservedOp word s := rfl
@[simp] theorem exec_romInit1 : exec .romInit1 s = execRomInit1 s := rfl
@[simp] theorem exec_romInit2 : exec .romInit2 s = execRomInit2 s := rfl
@[simp] theorem exec_romInit3 : exec .romInit3 s = execRomInit3 s := rfl
@[simp] theorem exec_romInit4 : exec .romInit4 s = execRomInit4 s := rfl
@[simp] theorem exec_romInit5 : exec .romInit5 s = execRomInit5 s := rfl
@[simp] theorem exec_romDbl1 : exec .romDbl1 s = execRomDbl1 s := rfl
@[simp] theorem exec_romDbl2 : exec .romDbl2 s = execRomDbl2 s := rfl
@[simp] theorem exec_romDbl3 : exec .romDbl3 s = execRomDbl3 s := rfl
@[simp] theorem exec_romDbl4 : exec .romDbl4 s = execRomDbl4 s := rfl
@[simp] theorem exec_romDbl5 : exec .romDbl5 s = execRomDbl5 s := rfl
@[simp] theorem exec_romDbl6 : exec .romDbl6 s = execRomDbl6 s := rfl
@[simp] theorem exec_romDbl7 : exec .romDbl7 s = execRomDbl7 s := rfl
@[simp] theorem exec_romDbl8 : exec .romDbl8 s = execRomDbl8 s := rfl
@[simp] theorem exec_romDbl9 : exec .romDbl9 s = execRomDbl9 s := rfl
@[simp] theorem exec_romDbl10 : exec .romDbl10 s = execRomDbl10 s := rfl
@[simp] theorem exec_romDbl11 : exec .romDbl11 s = execRomDbl11 s := rfl
@[simp] theorem exec_romDbl12 : exec .romDbl12 s = execRomDbl12 s := rfl
@[simp] theorem exec_romDbl13 : exec .romDbl13 s = execRomDbl13 s := rfl
@[simp] theorem exec_romDbl14 : exec .romDbl14 s = execRomDbl14 s := rfl
@[simp] theorem exec_romDbl15 : exec .romDbl15 s = execRomDbl15 s := rfl
@[simp] theorem exec_romDbl16 : exec .romDbl16 s = execRomDbl16 s := rfl
@[simp] theorem exec_romDbl17 : exec .romDbl17 s = execRomDbl17 s := rfl
@[simp] theorem exec_romDbl18 : exec .romDbl18 s = execRomDbl18 s := rfl
@[simp] theorem exec_romDbl19 : exec .romDbl19 s = execRomDbl19 s := rfl
@[simp] theorem exec_romDbl20 : exec .romDbl20 s = execRomDbl20 s := rfl
@[simp] theorem exec_romDbl21 : exec .romDbl21 s = execRomDbl21 s := rfl
@[simp] theorem exec_romAdd1 : exec .romAdd1 s = execRomAdd1 s := rfl
@[simp] theorem exec_romAdd2 : exec .romAdd2 s = execRomAdd2 s := rfl
@[simp] theorem exec_romAdd3 : exec .romAdd3 s = execRomAdd3 s := rfl
@[simp] theorem exec_romAdd4 : exec .romAdd4 s = execRomAdd4 s := rfl
@[simp] theorem exec_romAdd5 : exec .romAdd5 s = execRomAdd5 s := rfl
@[simp] theorem exec_romAdd6 : exec .romAdd6 s = execRomAdd6 s := rfl
@[simp] theorem exec_romAdd7 : exec .romAdd7 s = execRomAdd7 s := rfl
@[simp] theorem exec_romAdd8 : exec .romAdd8 s = execRomAdd8 s := rfl
@[simp] theorem exec_romAdd9 : exec .romAdd9 s = execRomAdd9 s := rfl
@[simp] theorem exec_romAdd10 : exec .romAdd10 s = execRomAdd10 s := rfl
@[simp] theorem exec_romAdd11 : exec .romAdd11 s = execRomAdd11 s := rfl
@[simp] theorem exec_romAdd12 : exec .romAdd12 s = execRomAdd12 s := rfl
@[simp] theorem exec_romAdd13 : exec .romAdd13 s = execRomAdd13 s := rfl
@[simp] theorem exec_romAdd14 : exec .romAdd14 s = execRomAdd14 s := rfl
@[simp] theorem exec_romAdd15 : exec .romAdd15 s = execRomAdd15 s := rfl
@[simp] theorem exec_romAdd16 : exec .romAdd16 s = execRomAdd16 s := rfl
@[simp] theorem exec_romAdd17 : exec .romAdd17 s = execRomAdd17 s := rfl
@[simp] theorem exec_romAdd18 : exec .romAdd18 s = execRomAdd18 s := rfl
@[simp] theorem exec_romAdd19 : exec .romAdd19 s = execRomAdd19 s := rfl
@[simp] theorem exec_romAdd20 : exec .romAdd20 s = execRomAdd20 s := rfl
@[simp] theorem exec_romAdd21 : exec .romAdd21 s = execRomAdd21 s := rfl
@[simp] theorem exec_romAffOne1 : exec .romAffOne1 s = execRomAffOne1 s := rfl
@[simp] theorem exec_romAffOne2 : exec .romAffOne2 s = execRomAffOne2 s := rfl
@[simp] theorem exec_romAffOne3 : exec .romAffOne3 s = execRomAffOne3 s := rfl
@[simp] theorem exec_romAffOne4 : exec .romAffOne4 s = execRomAffOne4 s := rfl
@[simp] theorem exec_romAffOne5 : exec .romAffOne5 s = execRomAffOne5 s := rfl
@[simp] theorem exec_romAffOne6 : exec .romAffOne6 s = execRomAffOne6 s := rfl
@[simp] theorem exec_romAffZero1 : exec .romAffZero1 s = execRomAffZero1 s := rfl
@[simp] theorem exec_romAffZero2 : exec .romAffZero2 s = execRomAffZero2 s := rfl
@[simp] theorem exec_romAffZero3 : exec .romAffZero3 s = execRomAffZero3 s := rfl
@[simp] theorem exec_romAffZero4 : exec .romAffZero4 s = execRomAffZero4 s := rfl
@[simp] theorem exec_cmdDbl : exec .cmdDbl s = execCmdDbl s := rfl
@[simp] theorem exec_cmdAdd : exec .cmdAdd s = execCmdAdd s := rfl
@[simp] theorem exec_cmdSmul : exec .cmdSmul s = execCmdSmul s := rfl
@[simp] theorem exec_cmdAff : exec .cmdAff s = execCmdAff s := rfl
@[simp] theorem exec_cmdKp : exec .cmdKp s = execCmdKp s := rfl
@[simp] theorem exec_cmdIllegal (code : Code) : exec (.cmdIllegal code) s = execCmdIllegal code s := rfl
@[simp] theorem exec_symZero : exec .symZero s = execSymZero s := rfl
@[simp] theorem exec_symOne : exec .symOne s = execSymOne s := rfl
@[simp] theorem exec_symMalformed (symbol : Symbol) : exec (.symMalformed symbol) s = execSymMalformed symbol s := rfl
end Arms

end Sys2Proof.Laws
end

