-- ==== Sys2Proof/Laws/Memory.lean ====
section
/-!
SUPPORT. The digit buffer: reading after writing, and the canonical form, which every operation keeps.
-/

namespace Sys2Proof.Laws

open Sys2Proof.Machine

@[simp] theorem Memory_read_nil (i : Nat) : Memory.read [] i = none := rfl

theorem Memory_read_write (m : Memory) (i k : Nat) (b : Symbol) :
    Memory.read (Memory.write m i b) k = if k = i then some b else Memory.read m k := by
  induction m with
  | nil => rfl
  | cons c m ih =>
    obtain ⟨j, a⟩ := c
    simp only [Memory.write]
    split
    · rfl
    · split
      · subst_vars
        simp only [Memory.read]
        split <;> rfl
      · simp only [Memory.read, ih]
        split_ifs <;> simp_all

@[simp] theorem Memory_read_write_same (m : Memory) (i : Nat) (b : Symbol) :
    Memory.read (Memory.write m i b) i = some b := by simp [Memory_read_write]

theorem Memory_read_write_other (m : Memory) {i k : Nat} (b : Symbol) (h : k ≠ i) :
    Memory.read (Memory.write m i b) k = Memory.read m k := by simp [Memory_read_write, h]

theorem Memory_rising_write {lo : Nat} {m : Memory} {i : Nat} (b : Symbol)
    (h : Memory.risingAbove lo m = true) (hi : lo < i) : Memory.risingAbove lo (Memory.write m i b) = true := by
  induction m generalizing lo with
  | nil => simp [Memory.write, Memory.risingAbove, hi]
  | cons c m ih =>
    obtain ⟨j, a⟩ := c
    simp only [Memory.risingAbove, Bool.and_eq_true, decide_eq_true_eq] at h
    simp only [Memory.write]
    split
    · simp_all [Memory.risingAbove]
    · split
      · simp_all [Memory.risingAbove]
      · have : j < i := by omega
        simp_all [Memory.risingAbove]

/-- A write keeps the canonical form. -/
theorem Memory_wf_write {m : Memory} (i : Nat) (b : Symbol) (h : Memory.wf m = true) :
    Memory.wf (Memory.write m i b) = true := by
  cases m with
  | nil => rfl
  | cons c m =>
    obtain ⟨j, a⟩ := c
    simp only [Memory.wf] at h
    simp only [Memory.write]
    split
    · simp_all [Memory.wf, Memory.risingAbove]
    · split
      · simp_all [Memory.wf]
      · exact Memory_rising_write b h (by omega)

theorem Memory_wf_reset : Memory.wf State.reset.dig = true := rfl

/-- In canonical form nothing below the first index is listed. -/
theorem Memory_read_below {lo : Nat} {m : Memory} (h : Memory.risingAbove lo m = true) {i : Nat} (hi : i ≤ lo) :
    Memory.read m i = none := by
  induction m generalizing lo with
  | nil => rfl
  | cons c m ih =>
    obtain ⟨j, a⟩ := c
    simp only [Memory.risingAbove, Bool.and_eq_true, decide_eq_true_eq] at h
    rw [Memory.read, if_neg (by omega), ih h.2 (by omega)]

/-- Equal memories are equal data: two canonical memories that read alike everywhere are the same list. -/
theorem Memory_ext {m n : Memory} (hm : Memory.wf m = true) (hn : Memory.wf n = true)
    (h : ∀ i, Memory.read m i = Memory.read n i) : m = n := by
  induction m generalizing n with
  | nil =>
    cases n with
    | nil => rfl
    | cons c n => simpa [Memory.read] using h c.1
  | cons c m ih =>
    obtain ⟨j, a⟩ := c
    cases n with
    | nil => simpa [Memory.read] using h j
    | cons d n =>
      obtain ⟨k, b⟩ := d
      simp only [Memory.wf] at hm hn
      have hjk : j = k := by
        rcases Nat.lt_trichotomy j k with hlt | heq | hgt
        · have := h j
          rw [Memory.read, if_pos rfl, Memory.read, if_neg (by omega), Memory_read_below hn (by omega)] at this
          cases this
        · exact heq
        · have := h k
          rw [Memory.read, if_neg (by omega), Memory_read_below hm (by omega), Memory.read, if_pos rfl] at this
          cases this
      subst hjk
      have hab : a = b := by simpa [Memory.read] using h j
      subst hab
      have wf_tail : ∀ {l : Memory}, Memory.risingAbove j l = true → Memory.wf l = true := by
        intro l hl
        cases l with
        | nil => rfl
        | cons e l => simp_all [Memory.risingAbove, Memory.wf]
      rw [ih (wf_tail hm) (wf_tail hn)]
      intro i
      by_cases hi : i = j
      · rw [hi, Memory_read_below hm le_rfl, Memory_read_below hn le_rfl]
      · simpa [Memory.read, hi] using h i

end Sys2Proof.Laws
end

