-- ==== Sys2Proof/Laws/HostPort.lean ====
section
/-!
SUPPORT. The host's transactions: a read leaves the machine alone, a write changes the register it names and nothing
else, and a refused transaction changes nothing (R46, R163).
-/

namespace Sys2Proof.Laws

open Sys2Proof.Machine

/-- A read answers, and does nothing else: "no read has a side effect" (R50). -/
theorem hostRead_eq (ha : Nat) (s : State) :
    hostRead ha s = answer (hostRead ha s).reply s := by
  unfold hostRead
  split
  · rfl
  · split
    · rfl
    · split <;> rfl

/-- While the core is busy every read but that of `STATUS` is refused (R45). -/
theorem hostRead_busy {ha : Nat} {s : State} (hb : flag .busy s = true) (hne : ha ≠ 0x0001) :
    hostRead ha s = answer .refused s := by
  unfold hostRead
  split
  · rfl
  · rename_i r hr
    have : r ≠ .status := by
      rintro rfl
      unfold hostReg hostField at hr
      repeat' split at hr
      all_goals simp_all
    simp [hb, this, refuse]

/-- While the core is busy every write is refused (R45). -/
theorem hostWrite_busy {s : State} (hb : flag .busy s = true) (ha v : Nat) :
    hostWrite ha v s = answer .refused s := by
  unfold hostWrite hostWriteLegal
  split <;> simp_all [refuse]

/-- A host write is refused, or it stores a value that fits in a writable register the map gives. -/
theorem hostWrite_cases (ha v : Nat) (s : State) :
    hostWrite ha v s = answer .refused s ∨
    ∃ r, hostReg s.params ha = some r ∧ flag .busy s = false ∧ hostWritable r = true ∧
      v < 2 ^ hostWidth s.params r ∧ hostWrite ha v s = answer .done (hostStore r v s) := by
  unfold hostWrite
  cases hl : hostWriteLegal ha v s with
  | false => exact .inl rfl
  | true =>
    unfold hostWriteLegal at hl
    cases hr : hostReg s.params ha with
    | none => simp [hr] at hl
    | some r =>
      simp only [hr, isBusy_eq, Bool.and_eq_true, Bool.not_eq_true', decide_eq_true_eq] at hl
      exact .inr ⟨r, rfl, hl.1.1, hl.1.2, hl.2, rfl⟩

/-- What a store leaves alone whatever the register: everything but `FREG`, `P`, `MC`, `DIG`, `LEN` and `LASTD`. -/
theorem hostStore_frame (r : HostReg) (v : Nat) (s : State) :
    (hostStore r v s).params = s.params ∧ (hostStore r v s).dpos = s.dpos ∧ (hostStore r v s).status = s.status ∧
    (hostStore r v s).unit = s.unit ∧ (hostStore r v s).upc = s.upc ∧ (hostStore r v s).cmdr = s.cmdr ∧
    (hostStore r v s).cur = s.cur ∧ (hostStore r v s).trace = s.trace ∧ (hostStore r v s).inputs = s.inputs ∧
    (hostStore r v s).reply = s.reply ∧ (hostStore r v s).injected = s.injected := by
  cases r <;> simp [hostStore]

/-- A register that the map gives at an index of `DIG` is an entry below `NDIG` (R44). -/
theorem hostReg_dig {c : Params} {ha j : Nat} (h : hostReg c ha = some (.dig j)) : j < c.ndig ∧ ha = 0x1000 + j := by
  unfold hostReg hostField at h
  repeat' split at h
  all_goals simp_all
  omega

/-- A field register that the map gives is a Point register, the addend or the output pair (R44). -/
theorem hostReg_field {c : Params} {ha : Nat} {r : Reg} (h : hostReg c ha = some (.field r)) :
    r ≠ .one ∧ r.isScratch = false := by
  unfold hostReg hostField at h
  repeat' split at h
  all_goals (cases h <;> decide)

/-- The one index of `CMD` (R44). -/
theorem hostReg_cmd {c : Params} {ha : Nat} : hostReg c ha = some .cmd ↔ ha = 0 := by
  constructor
  · intro h
    unfold hostReg hostField at h
    repeat' split at h
    all_goals first | assumption | cases h
  · rintro rfl; rfl

/-- A write to `CMD` is legal exactly when the core is idle and the code is 8 bits wide (R45, R163). -/
theorem hostWriteLegal_cmd {v : Nat} {s : State} :
    hostWriteLegal 0x0000 v s = true ↔ flag .busy s = false ∧ v < 256 := by
  change (!isBusy s && true && decide (v < 256)) = true ↔ _
  simp

end Sys2Proof.Laws
end

