-- ==== Sys2Proof/Laws/Provider.lean ====
section
/-!
SUPPORT. The field-arithmetic provider as arithmetic of the prime field: `powMod` is a power, every result is
canonical, and `fieldOf` carries each function of the provider to the operation of `ZMod p` it stands for, whichever
instance the parameters name.
-/

namespace Sys2Proof.Laws

open Sys2Proof.Machine

/-! ## Powers -/

theorem powModAux_eq (m : Nat) : ∀ (fuel b e : Nat), e < 2 ^ fuel → powModAux m fuel b e = b ^ e % m
  | 0, b, e, h => by
    have : e = 0 := by simpa using h
    subst this; simp [powModAux]
  | fuel + 1, b, e, h => by
    have half : e / 2 < 2 ^ fuel := by rw [pow_succ] at h; omega
    have sq : (b * b % m) ^ (e / 2) % m = b ^ (2 * (e / 2)) % m := by
      rw [← Nat.pow_mod, pow_mul, pow_two]
    rw [powModAux]
    split
    · rename_i odd
      have : e = 2 * (e / 2) + 1 := by omega
      rw [powModAux_eq m fuel _ _ half, sq]
      conv_rhs => rw [this, pow_succ, mul_comm]
      simp [Nat.mul_mod]
    · have : e = 2 * (e / 2) := by omega
      rw [powModAux_eq m fuel _ _ half, sq, ← this]

theorem powMod_eq (m b e : Nat) : powMod m b e = b ^ e % m :=
  powModAux_eq m _ b e Nat.lt_log2_self

/-! ## The field a value stands for -/

theorem fpBase_lt (c : Params) {p : Nat} (hp : 1 < p) : fpBase c p < p := by
  unfold fpBase
  split
  · exact hp
  · exact Nat.mod_lt _ (by omega)
  · split
    · exact hp
    · exact Nat.mod_lt _ (by omega)

theorem fpBase_ne_zero (c : Params) {p : Nat} [hp : Fact p.Prime] (h3 : 3 < p) : (fpBase c p : ZMod p) ≠ 0 := by
  unfold fpBase
  split
  · simp
  · rw [ZMod.natCast_mod, Ne, ZMod.natCast_eq_zero_iff]
    intro h
    have := (Nat.prime_dvd_prime_iff_eq hp.out Nat.prime_two).mp (hp.out.dvd_of_dvd_pow h)
    omega
  · split
    · simp
    · rename_i h
      rwa [ZMod.natCast_mod, Ne, ZMod.natCast_eq_zero_iff, Nat.dvd_iff_mod_eq_zero]

/-- `FP.one` is the base value or its negative, which one may depend on the constant. -/
theorem fpOne_cast (c : Params) {p : Nat} (mc : Nat) (hp : 1 < p) :
    (fpOne c p mc : ZMod p) = fpBase c p ∨ (fpOne c p mc : ZMod p) = -fpBase c p := by
  unfold fpOne
  split
  · exact .inl rfl
  · exact .inl rfl
  · split
    · right; rw [Nat.cast_sub (fpBase_lt c hp).le, ZMod.natCast_self, zero_sub]
    · exact .inl rfl

/-- The square of `FP.one` does not depend on the constant. -/
theorem fpOne_square (c : Params) {p : Nat} (mc : Nat) (hp : 1 < p) :
    (fpOne c p mc : ZMod p) * fpOne c p mc = fpBase c p * fpBase c p := by
  rcases fpOne_cast c mc hp with h | h <;> rw [h]
  rw [neg_mul_neg]

theorem fpOne_lt (c : Params) {p : Nat} (mc : Nat) (hp : 1 < p) : fpOne c p mc < p := by
  have hb := fpBase_lt c hp
  unfold fpOne
  split
  · exact hb
  · exact hb
  · rename_i hprov
    split
    · have : 0 < fpBase c p := by
        unfold fpBase; rw [hprov]; dsimp only; split <;> omega
      omega
    · exact hb

theorem fpOne_ne_zero (c : Params) {p : Nat} (mc : Nat) [hp : Fact p.Prime] (h3 : 3 < p) :
    (fpOne c p mc : ZMod p) ≠ 0 := by
  rcases fpOne_cast c mc (by omega : 1 < p) with h | h <;> rw [h]
  · exact fpBase_ne_zero c h3
  · exact neg_ne_zero.mpr (fpBase_ne_zero c h3)

theorem plainInv_cast {p : Nat} [hp : Fact p.Prime] (h3 : 3 < p) (a : Nat) :
    (plainInv p a : ZMod p) = (a : ZMod p)⁻¹ := by
  unfold plainInv
  rw [powMod_eq, ZMod.natCast_mod, Nat.cast_pow]
  by_cases h : (a : ZMod p) = 0
  · rw [h, inv_zero, zero_pow (by omega)]
  · apply eq_inv_of_mul_eq_one_left
    rw [← pow_succ, show p - 2 + 1 = p - 1 by omega, ZMod.pow_card_sub_one_eq_one h]

/-! ## Every result is canonical (R76) -/

theorem fpMul_lt (c : Params) {p : Nat} (mc a b : Nat) (hp : 0 < p) : fpMul c p mc a b < p := by
  unfold fpMul; split <;> exact Nat.mod_lt _ hp

theorem fpAdd_lt {p a b : Nat} (ha : a < p) (hb : b < p) : fpAdd p a b < p := by
  unfold fpAdd; split <;> omega

theorem fpSub_lt {p a b : Nat} (ha : a < p) (hb : b < p) : fpSub p a b < p := by
  unfold fpSub; split <;> omega

theorem fpInv_lt (c : Params) {p : Nat} (a : Nat) (hp : 0 < p) : fpInv c p a < p := by
  unfold fpInv
  split
  · rw [plainInv, powMod_eq]; exact Nat.mod_lt _ hp
  all_goals exact Nat.mod_lt _ hp

/-! ## Each function is the operation of the field -/

theorem fpAdd_eq_mod {p a b : Nat} (ha : a < p) (hb : b < p) : fpAdd p a b = (a + b) % p := by
  unfold fpAdd
  split
  · rw [Nat.mod_eq_sub_mod (by omega), Nat.mod_eq_of_lt (by omega)]
  · rw [Nat.mod_eq_of_lt (by omega)]

theorem fpAdd_cast {p a b : Nat} (ha : a < p) (hb : b < p) : (fpAdd p a b : ZMod p) = a + b := by
  rw [fpAdd_eq_mod ha hb, ZMod.natCast_mod, Nat.cast_add]

theorem fpSub_cast {p a b : Nat} (hb : b < p) : (fpSub p a b : ZMod p) = a - b := by
  unfold fpSub
  split
  · rw [Nat.cast_sub (by omega), Nat.cast_add, ZMod.natCast_self, add_zero]
  · rw [Nat.cast_sub (by omega)]

theorem fpMul_cast (c : Params) {p : Nat} (mc : Nat) [Fact p.Prime] (h3 : 3 < p) (a b : Nat) :
    (fpMul c p mc a b : ZMod p) = a * b * (fpOne c p mc : ZMod p)⁻¹ := by
  rcases c with ⟨w, nd, pol, prov⟩
  cases prov
  · simp [fpMul, fpOne, fpBase]
  all_goals simp [fpMul, plainInv_cast h3]

theorem fpInv_cast (c : Params) {p : Nat} (mc : Nat) [Fact p.Prime] (h3 : 3 < p) (a : Nat) :
    (fpInv c p a : ZMod p) = (a : ZMod p)⁻¹ * fpOne c p mc * fpOne c p mc := by
  rw [mul_assoc, fpOne_square c mc (by omega : 1 < p)]
  rcases c with ⟨w, nd, pol, prov⟩
  cases prov
  · simp [fpInv, fpBase, plainInv_cast h3]
  all_goals simp [fpInv, plainInv_cast h3, mul_assoc]

section Homomorphism
variable (c : Params) {p : Nat} (mc : Nat) [Fact p.Prime] (h3 : 3 < p)
include h3

@[simp] theorem fieldOf_one : fieldOf c p mc (fpOne c p mc) = 1 :=
  mul_inv_cancel₀ (fpOne_ne_zero c mc h3)

theorem fieldOf_mul (a b : Nat) :
    fieldOf c p mc (fpMul c p mc a b) = fieldOf c p mc a * fieldOf c p mc b := by
  unfold fieldOf; rw [fpMul_cast c mc h3]; ring

theorem fieldOf_inv (a : Nat) : fieldOf c p mc (fpInv c p a) = (fieldOf c p mc a)⁻¹ := by
  unfold fieldOf
  rw [fpInv_cast c mc h3, mul_inv, inv_inv, mul_assoc, mul_assoc, mul_inv_cancel₀ (fpOne_ne_zero c mc h3), mul_one]

theorem fieldOf_eq_zero {a : Nat} (ha : a < p) : fieldOf c p mc a = 0 ↔ a = 0 := by
  unfold fieldOf
  rw [mul_eq_zero, or_iff_left (inv_ne_zero (fpOne_ne_zero c mc h3)), ZMod.natCast_eq_zero_iff]
  exact ⟨fun h => Nat.eq_zero_of_dvd_of_lt h ha, fun h => h ▸ dvd_zero p⟩

theorem fieldOf_injective {a b : Nat} (ha : a < p) (hb : b < p)
    (h : fieldOf c p mc a = fieldOf c p mc b) : a = b := by
  unfold fieldOf at h
  have := mul_right_cancel₀ (inv_ne_zero (fpOne_ne_zero c mc h3)) h
  rwa [ZMod.natCast_eq_natCast_iff', Nat.mod_eq_of_lt ha, Nat.mod_eq_of_lt hb] at this

end Homomorphism

theorem fieldOf_add (c : Params) {p : Nat} (mc : Nat) {a b : Nat} (ha : a < p) (hb : b < p) :
    fieldOf c p mc (fpAdd p a b) = fieldOf c p mc a + fieldOf c p mc b := by
  unfold fieldOf; rw [fpAdd_cast ha hb, add_mul]

theorem fieldOf_sub (c : Params) {p : Nat} (mc : Nat) {a b : Nat} (hb : b < p) :
    fieldOf c p mc (fpSub p a b) = fieldOf c p mc a - fieldOf c p mc b := by
  unfold fieldOf; rw [fpSub_cast hb, sub_mul]

@[simp] theorem fieldOf_copy (c : Params) (p mc a : Nat) :
    fieldOf c p mc (fpCopy a) = fieldOf c p mc a := rfl

end Sys2Proof.Laws
end

