-- ==== Sys2Proof/Laws/Primality.lean ====
section
/-!
SUPPORT. The primality test of the accept step is primality (R161). Trial division is followed by its definition; the
modulus of secp256r1 is prime by a chain of Lucas certificates.
-/

namespace Sys2Proof.Laws

open Sys2Proof.Machine

/-- Lucas's criterion in terms of `powMod`, for a factor list of `n - 1`. -/
theorem prime_of_certificate (n a : Nat) (factors : List Nat) (hn : 1 < n)
    (prime : ∀ q ∈ factors, q.Prime) (product : factors.prod = n - 1)
    (one : powMod n a (n - 1) = 1) (others : ∀ q ∈ factors, powMod n a ((n - 1) / q) ≠ 1) : n.Prime := by
  have cast (e : Nat) : (a : ZMod n) ^ e = 1 ↔ powMod n a e = 1 := by
    rw [powMod_eq, ← Nat.cast_pow, ← Nat.cast_one (R := ZMod n), ZMod.natCast_eq_natCast_iff', Nat.mod_eq_of_lt hn]
  apply lucas_primality n (a : ZMod n) ((cast _).mpr one)
  intro q hq hd
  rw [← product] at hd
  obtain ⟨r, hr, hqr⟩ := (hq.prime.dvd_prod_iff).mp hd
  rw [(Nat.prime_dvd_prime_iff_eq hq (prime r hr)).mp hqr]
  exact fun h => others r hr ((cast _).mp h)

theorem prime_204061199 : Nat.Prime 204061199 := by
  refine prime_of_certificate 204061199 11 [2, 11, 23, 107, 3769] (by decide) ?_ (by decide +kernel) (by decide +kernel)
    (by decide +kernel)
  simp only [List.forall_mem_cons, List.not_mem_nil, false_implies, implies_true, and_true]
  refine ⟨by norm_num, by norm_num, by norm_num, by norm_num, by norm_num⟩

theorem prime_34282281433 : Nat.Prime 34282281433 := by
  refine prime_of_certificate 34282281433 17 [2, 2, 2, 3, 7, 204061199] (by decide) ?_ (by decide +kernel) (by decide +kernel)
    (by decide +kernel)
  simp only [List.forall_mem_cons, List.not_mem_nil, false_implies, implies_true, and_true]
  refine ⟨by norm_num, by norm_num, by norm_num, by norm_num, by norm_num, prime_204061199⟩

theorem prime_66417393611 : Nat.Prime 66417393611 := by
  refine prime_of_certificate 66417393611 6 [2, 5, 53, 173, 197, 3677] (by decide) ?_ (by decide +kernel) (by decide +kernel)
    (by decide +kernel)
  simp only [List.forall_mem_cons, List.not_mem_nil, false_implies, implies_true, and_true]
  refine ⟨by norm_num, by norm_num, by norm_num, by norm_num, by norm_num, by norm_num⟩

theorem prime_11290956913871 : Nat.Prime 11290956913871 := by
  refine prime_of_certificate 11290956913871 13 [2, 5, 17, 66417393611] (by decide) ?_ (by decide +kernel) (by decide +kernel)
    (by decide +kernel)
  simp only [List.forall_mem_cons, List.not_mem_nil, false_implies, implies_true, and_true]
  refine ⟨by norm_num, by norm_num, by norm_num, prime_66417393611⟩

theorem prime_46076956964474543 : Nat.Prime 46076956964474543 := by
  refine prime_of_certificate 46076956964474543 5 [2, 23, 18169, 78283, 704251] (by decide) ?_ (by decide +kernel) (by decide +kernel)
    (by decide +kernel)
  simp only [List.forall_mem_cons, List.not_mem_nil, false_implies, implies_true, and_true]
  refine ⟨by norm_num, by norm_num, by norm_num, by norm_num, by norm_num⟩

theorem prime_774023187263532362759620327192479577272145303 : Nat.Prime 774023187263532362759620327192479577272145303 := by
  refine prime_of_certificate 774023187263532362759620327192479577272145303 3 [2, 3, 3, 2411, 34282281433, 11290956913871, 46076956964474543] (by decide) ?_ (by decide +kernel) (by decide +kernel)
    (by decide +kernel)
  simp only [List.forall_mem_cons, List.not_mem_nil, false_implies, implies_true, and_true]
  refine ⟨by norm_num, by norm_num, by norm_num, by norm_num, prime_34282281433, prime_11290956913871, prime_46076956964474543⟩

theorem prime_835945042244614951780389953367877943453916927241 : Nat.Prime 835945042244614951780389953367877943453916927241 := by
  refine prime_of_certificate 835945042244614951780389953367877943453916927241 11 [2, 2, 2, 3, 3, 3, 5, 774023187263532362759620327192479577272145303] (by decide) ?_ (by decide +kernel) (by decide +kernel)
    (by decide +kernel)
  simp only [List.forall_mem_cons, List.not_mem_nil, false_implies, implies_true, and_true]
  refine ⟨by norm_num, by norm_num, by norm_num, by norm_num, by norm_num, by norm_num, by norm_num, prime_774023187263532362759620327192479577272145303⟩

theorem prime_p256 : Config.p256.Prime := by
  refine prime_of_certificate Config.p256 6 [2, 3, 5, 5, 17, 257, 641, 1531, 65537, 490463, 6700417, 835945042244614951780389953367877943453916927241] (by decide) ?_ (by decide +kernel) (by decide +kernel)
    (by decide +kernel)
  simp only [List.forall_mem_cons, List.not_mem_nil, false_implies, implies_true, and_true]
  refine ⟨by norm_num, by norm_num, by norm_num, by norm_num, by norm_num, by norm_num, by norm_num, by norm_num, by norm_num, by norm_num, by norm_num, prime_835945042244614951780389953367877943453916927241⟩

theorem isPrime_iff (p : Nat) : isPrime p = true ↔ p.Prime := by
  simp only [isPrime, Bool.or_eq_true, beq_iff_eq, Bool.and_eq_true, decide_eq_true_eq, List.all_eq_true,
    List.mem_range, bne_iff_ne]
  constructor
  · rintro (rfl | ⟨h2, h⟩)
    · exact prime_p256
    · rw [Nat.prime_def_lt]
      refine ⟨h2, fun d hd hdvd => ?_⟩
      rcases h d hd with h | h
      · interval_cases d
        · exact absurd (Nat.eq_zero_of_zero_dvd hdvd) (by omega)
        · rfl
      · exact absurd (Nat.mod_eq_zero_of_dvd hdvd) h
  · intro h
    refine .inr ⟨h.two_le, fun d hd => ?_⟩
    by_cases h2 : d < 2
    · exact .inl h2
    · exact .inr fun hm => h2 (by have := (Nat.prime_def_lt.mp h).2 d hd (Nat.dvd_of_mod_eq_zero hm); omega)

/-- What the accept step's modulus check says (R27, R161). -/
theorem goodModulus_iff (c : Params) (p : Nat) :
    goodModulus c p = true ↔ p.Prime ∧ 3 < p ∧ p < 2 ^ c.w := by
  simp only [goodModulus, Bool.and_eq_true, decide_eq_true_eq, isPrime_iff]
  tauto

end Sys2Proof.Laws
end

