-- ==== Sys2Proof/Laws/Sequence.lean ====
section
/-!
SUPPORT. What a micro-operation step can answer, what the advance and the transition at the end of a microprogram leave
alone, and the fetch of a ROM slot.
-/

namespace Sys2Proof.Laws

open Sys2Proof.Machine

/-- All a micro-operation step can do: the destination is legal, the result is there, and the state is retired. -/
theorem microStep_next {k : OpKind} {dst sa : Reg} {sb : Option Reg} {s t : State} :
    microStep k dst sa sb s = .next t ↔
      dst.legalDst = true ∧ ∃ v, microResult k sa sb s = .ok v ∧ t = retire k dst sa sb v s := by
  unfold microStep
  cases hd : dst.legalDst with
  | false => simp
  | true => cases hr : microResult k sa sb s <;> simp [eq_comm]

/-- All the ways in which one faults. -/
theorem microStep_fault {k : OpKind} {dst sa : Reg} {sb : Option Reg} {s : State} {f : Fault} :
    microStep k dst sa sb s = .fault f ↔
      (dst.legalDst = false ∧ f = .illegalMicroOp (microWord k dst sa sb)) ∨
      (dst.legalDst = true ∧ microResult k sa sb s = .error f) := by
  unfold microStep
  cases hd : dst.legalDst with
  | false => simp [eq_comm]
  | true => cases hr : microResult k sa sb s <;> simp

theorem microStep_not_refused {k : OpKind} {dst sa : Reg} {sb : Option Reg} {s : State} {r : Refusal} :
    microStep k dst sa sb s ≠ .refused r := by
  unfold microStep
  repeat' split
  all_goals simp

/-- At its own slot, a slot's step is the micro-operation step. -/
theorem slotStep_at {u : SeqUnit} {n : Nat} {s : State} (hu : s.unit = u) (hn : s.upc = n) (k : OpKind)
    (dst sa : Reg) (sb : Option Reg) : slotStep u n k dst sa sb s = microStep k dst sa sb s := by
  subst hu hn; rfl

/-- Before the last slot the advance is of `UPC` alone (R77). -/
theorem advance_inside {s : State} (h : s.upc + 1 ≠ romLength s.unit) : advance s = setUpc (s.upc + 1) s := by
  simp [advance, h]

/-- At the last slot the advance is the transition, from `UPC` 0 (R142). -/
theorem advance_last {s : State} (h : s.upc + 1 = romLength s.unit) : advance s = endTransition (setUpc 0 s) := by
  simp [advance, h]

/-- The transition never touches `P`, `MC`, `DIG`, `LEN`, `LASTD`, `CMDR`, `CUR`, the trace, or the model's own
fields. -/
theorem endTransition_frame (s : State) :
    (endTransition s).params = s.params ∧ (endTransition s).p = s.p ∧ (endTransition s).mc = s.mc ∧
    (endTransition s).dig = s.dig ∧ (endTransition s).len = s.len ∧ (endTransition s).lastd = s.lastd ∧
    (endTransition s).cmdr = s.cmdr ∧ (endTransition s).cur = s.cur ∧ (endTransition s).trace = s.trace ∧
    (endTransition s).inputs = s.inputs ∧ (endTransition s).reply = s.reply ∧
    (endTransition s).injected = s.injected := by
  unfold endTransition
  split <;> (repeat' split) <;> simp

/-- Nor does a whole micro-operation, but for the event it appends. -/
theorem retire_frame (k : OpKind) (dst sa : Reg) (sb : Option Reg) (v : Nat) (s : State) :
    (retire k dst sa sb v s).params = s.params ∧ (retire k dst sa sb v s).p = s.p ∧
    (retire k dst sa sb v s).mc = s.mc ∧ (retire k dst sa sb v s).dig = s.dig ∧
    (retire k dst sa sb v s).len = s.len ∧ (retire k dst sa sb v s).lastd = s.lastd ∧
    (retire k dst sa sb v s).cmdr = s.cmdr ∧ (retire k dst sa sb v s).cur = s.cur ∧
    (retire k dst sa sb v s).trace = s.trace ++ [⟨s.unit, s.upc + 1, k, dst, sa, sb⟩] ∧
    (retire k dst sa sb v s).inputs = s.inputs ∧ (retire k dst sa sb v s).reply = s.reply ∧
    (retire k dst sa sb v s).injected = s.injected := by
  unfold retire advance
  split
  · have h := endTransition_frame (setUpc 0 (emit ⟨s.unit, s.upc + 1, k, dst, sa, sb⟩ (putReg dst v s)))
    simpa using h
  · simp

/-- The word of a ROM slot decodes to that slot's row. -/
theorem decode_slot {u : SeqUnit} {k : Nat} {w : MicroWord} {i : Instr} (hw : romWord u k = some w)
    (hi : romRow u k = some i) : decode (.slot u k w) = .ok i := by
  simp [decode, hw, hi]

/-- Every slot has a word and a row, and there are `romLength` of them (R62). -/
theorem romWords_length (u : SeqUnit) : (romWords u).length = romLength u := by cases u <;> rfl

theorem romRows_length (u : SeqUnit) : (romRows u).length = romLength u := by cases u <;> rfl

theorem romWord_isSome {u : SeqUnit} {k : Nat} : (romWord u k).isSome ↔ k < romLength u := by
  simp [romWord, romWords_length]

/-- A slot that has a word has legal fields, and they are the word's (R60, R62). -/
theorem slotFields_of_lt {u : SeqUnit} {k : Nat} (hk : k < romLength u) :
    ∃ op dst sa sb, slotFields u k = some (op, dst, sa, sb) ∧ dst.legalDst = true ∧
      romWord u k = some (microWord op dst sa sb) := by
  cases u <;> simp only [romLength] at hk
  case init => interval_cases k <;> exact ⟨_, _, _, _, rfl, rfl, rfl⟩
  case dbl => interval_cases k <;> exact ⟨_, _, _, _, rfl, rfl, rfl⟩
  case add => interval_cases k <;> exact ⟨_, _, _, _, rfl, rfl, rfl⟩
  case aff1 => interval_cases k <;> exact ⟨_, _, _, _, rfl, rfl, rfl⟩
  case aff0 => interval_cases k <;> exact ⟨_, _, _, _, rfl, rfl, rfl⟩
  all_goals omega

/-- The row of a slot runs the operation its word's fields name, at that slot. -/
theorem exec_romRow {u : SeqUnit} {k : Nat} {i : Instr} {op : OpKind} {dst sa : Reg} {sb : Option Reg}
    (hi : romRow u k = some i) (hf : slotFields u k = some (op, dst, sa, sb)) (s : State) :
    exec i s = slotStep u k op dst sa sb s := by
  have hk : k < romLength u := by
    rw [← romRows_length]; exact (List.getElem?_eq_some_iff.mp hi).1
  cases u <;> simp only [romLength] at hk
  case init => interval_cases k <;> cases hi <;> cases hf <;> rfl
  case dbl => interval_cases k <;> cases hi <;> cases hf <;> rfl
  case add => interval_cases k <;> cases hi <;> cases hf <;> rfl
  case aff1 => interval_cases k <;> cases hi <;> cases hf <;> rfl
  case aff0 => interval_cases k <;> cases hi <;> cases hf <;> rfl
  all_goals omega

end Sys2Proof.Laws
end

