-- ==== Sys2Proof/Laws/Step.lean ====
section
/-!
SUPPORT. One inversion lemma for the step: what it decodes, and what it does when it decodes nothing.
-/

namespace Sys2Proof.Laws

open Sys2Proof.Machine

/-! ## The exit from a model fault -/

@[simp] theorem faultExit_next (s t : State) : faultExit s (.next t) = .next t := rfl

@[simp] theorem faultExit_refused (s : State) (e : Refusal) : faultExit s (.refused e) = .refused e := rfl

/-- With no reset to come the answer stands. -/
theorem faultExit_of_none {s : State} (h : afterReset s.inputs = none) (r : Result) : faultExit s r = r := by
  cases r <;> simp [faultExit, h]

/-- A model fault with a reset to come. -/
theorem faultExit_of_some {s : State} {rest : List Input} (h : afterReset s.inputs = some rest) (f : Fault) :
    faultExit s (.fault f) = .next (resetEvent { s with inputs := rest }) := by
  simp [faultExit, h]

/-- All the exit can do when it answers a state: leave it, or turn a fault into the reset state. -/
theorem faultExit_eq_next {s t : State} {r : Result} (h : faultExit s r = .next t) :
    r = .next t ∨
    ∃ f rest, r = .fault f ∧ afterReset s.inputs = some rest ∧ t = resetEvent { s with inputs := rest } := by
  cases r with
  | next u => exact .inl h
  | refused e => cases h
  | fault f =>
    cases hr : afterReset s.inputs with
    | none => rw [faultExit_of_none hr] at h; cases h
    | some rest => rw [faultExit_of_some hr] at h; cases h; exact .inr ⟨f, rest, rfl, rfl, rfl⟩

/-- A fault gets through only where no reset is to come. -/
theorem faultExit_eq_fault {s : State} {r : Result} {f : Fault} (h : faultExit s r = .fault f) :
    r = .fault f ∧ afterReset s.inputs = none := by
  cases r with
  | next u => cases h
  | refused e => cases h
  | fault g =>
    cases hr : afterReset s.inputs with
    | none => rw [faultExit_of_none hr] at h; exact ⟨h, rfl⟩
    | some rest => rw [faultExit_of_some hr] at h; cases h

/-- `afterReset` finds what follows the first reset. -/
theorem afterReset_eq_some {is rest : List Input} :
    afterReset is = some rest ↔ ∃ pre, Input.reset ∉ pre ∧ is = pre ++ .reset :: rest := by
  induction is with
  | nil => simp [afterReset]
  | cons i is ih =>
    cases i
    case reset =>
      simp only [afterReset, Option.some.injEq]
      refine ⟨fun h => ⟨[], by simp, by simp [h]⟩, fun ⟨pre, hn, hp⟩ => ?_⟩
      cases pre with
      | nil => simpa using hp
      | cons j pre => simp at hp; simp [← hp.1] at hn
    all_goals
      simp only [afterReset, ih]
      constructor
      · rintro ⟨pre, hn, rfl⟩
        exact ⟨_ :: pre, by simpa using hn, rfl⟩
      · rintro ⟨pre, hn, hp⟩
        cases pre with
        | nil => simp at hp
        | cons j pre =>
          simp only [List.cons_append, List.cons.injEq] at hp
          exact ⟨pre, fun hm => hn (List.mem_cons_of_mem _ hm), hp.2⟩

theorem afterReset_eq_none {is : List Input} : afterReset is = none ↔ Input.reset ∉ is := by
  induction is with
  | nil => simp [afterReset]
  | cons i is ih => cases i <;> simp [afterReset, ih]

/-! ## The step -/

theorem step_of_next {s t : State} (h : attempt s = .next t) : step s = .next t := by simp [step, h]

/-- With no reset to come a step is what it attempts. -/
theorem step_of_none {s : State} (h : afterReset s.inputs = none) : step s = attempt s := faultExit_of_none h _

/-- A step that decodes an item runs the instruction decoded. -/
theorem attempt_item {s t : State} {it : Item} {i : Instr} (h : nextItem s = some (it, t)) (hd : decode it = .ok i) :
    attempt s = exec i t := by
  simp [attempt, h, hd]

theorem attempt_control {s : State} (h : nextItem s = none) : attempt s = controlStep s := by
  simp [attempt, h]

/-- All a step that answers a state can be. -/
theorem step_next {s t : State} (h : step s = .next t) :
    (∃ it u i, nextItem s = some (it, u) ∧ decode it = .ok i ∧ exec i u = .next t) ∨
    (nextItem s = none ∧ controlStep s = .next t) ∨
    (∃ f rest, attempt s = .fault f ∧ afterReset s.inputs = some rest ∧ t = resetEvent { s with inputs := rest }) := by
  obtain h | ⟨f, rest, hf, hr, ht⟩ := faultExit_eq_next h
  · unfold attempt at h
    cases hn : nextItem s with
    | none => rw [hn] at h; exact .inr (.inl ⟨rfl, h⟩)
    | some q =>
      obtain ⟨it, u⟩ := q
      rw [hn] at h
      dsimp only at h
      cases hd : decode it with
      | error e => rw [hd] at h; cases h
      | ok i => rw [hd] at h; exact .inl ⟨it, u, i, rfl, hd, h⟩
  · exact .inr (.inr ⟨f, rest, hf, hr, ht⟩)

/-! ## The items -/

/-- The items the sequencer reads, when no word is injected: the slot that `UNIT` and `UPC` name, or the symbol at
`DPOS`. -/
theorem sequencerItem_some {s t : State} {it : Item} (hinj : s.injected = none)
    (h : sequencerItem s = some (it, t)) :
    t = s ∧
    ((∃ w, romWord s.unit s.upc = some w ∧ it = .slot s.unit s.upc w) ∨
     (∃ c, s.unit = .fetch ∧ s.dpos.toNat < s.len.toNat ∧ s.dpos.toNat < s.params.ndig ∧
        Memory.read s.dig s.dpos.toNat = some c ∧ it = .symbol c)) := by
  unfold sequencerItem at h
  rw [hinj] at h
  cases hu : s.unit <;> rw [hu] at h <;> simp only at h
  case idle => cases h
  case fin => cases h
  case affsel => cases h
  case fetch =>
    split at h
    · rename_i hlt
      cases hm : Memory.read s.dig s.dpos.toNat with
      | none => rw [hm] at h; cases h
      | some c =>
        rw [hm] at h; cases h
        exact ⟨rfl, .inr ⟨c, rfl, hlt.1, hlt.2, rfl, rfl⟩⟩
    · cases h
  all_goals
    split at h
    · rename_i w hw
      cases h
      exact ⟨rfl, .inl ⟨w, hw, rfl⟩⟩
    · cases h

/-- The sequencer at a slot of its ROM decodes that slot. -/
theorem sequencerItem_slot {s : State} (hinj : s.injected = none) {w : MicroWord}
    (hw : romWord s.unit s.upc = some w) : sequencerItem s = some (.slot s.unit s.upc w, s) := by
  unfold sequencerItem
  rw [hinj]
  cases hu : s.unit <;> rw [hu] at hw <;> first | cases hw | simp [hw]

/-- Where the sequencer decodes nothing. -/
theorem sequencerItem_none {s : State} (hinj : s.injected = none) (h : sequencerItem s = none) :
    s.unit = .idle ∨ s.unit = .fin ∨ s.unit = .affsel ∨
    (s.unit = .fetch ∧
      (s.len.toNat ≤ s.dpos.toNat ∨ s.params.ndig ≤ s.dpos.toNat ∨ Memory.read s.dig s.dpos.toNat = none)) ∨
    (romLength s.unit ≠ 0 ∧ romLength s.unit ≤ s.upc) := by
  unfold sequencerItem at h
  rw [hinj] at h
  cases hu : s.unit <;> rw [hu] at h <;> simp only at h
  case idle => exact .inl rfl
  case fin => exact .inr (.inl rfl)
  case affsel => exact .inr (.inr (.inl rfl))
  case fetch =>
    refine .inr (.inr (.inr (.inl ⟨rfl, ?_⟩)))
    split at h
    · right; right
      cases hm : Memory.read s.dig s.dpos.toNat with
      | none => rfl
      | some c => rw [hm] at h; cases h
    · omega
  all_goals
    refine .inr (.inr (.inr (.inr ⟨by decide, ?_⟩)))
    split at h
    · cases h
    · rename_i hw
      simpa [romWord, romWords_length] using hw

/-- A micro-operation is a step at a slot of the ROM, and it is the operation the slot's word names. -/
theorem exec_slot {u : SeqUnit} {k : Nat} {w : MicroWord} {i : Instr} (hw : romWord u k = some w)
    (hd : decode (.slot u k w) = .ok i) :
    ∃ op dst sa sb, slotFields u k = some (op, dst, sa, sb) ∧ dst.legalDst = true ∧
      ∀ s, exec i s = slotStep u k op dst sa sb s := by
  have hk : k < romLength u := romWord_isSome.mp (by simp [hw])
  obtain ⟨op, dst, sa, sb, hf, hdst, -⟩ := slotFields_of_lt hk
  obtain ⟨j, hj⟩ : ∃ j, romRow u k = some j :=
    Option.isSome_iff_exists.mp (by simpa [romRow, romRows_length] using hk)
  have : i = j := by rw [decode_slot hw hj] at hd; cases hd; rfl
  subst this
  exact ⟨op, dst, sa, sb, hf, hdst, fun s => exec_romRow hj hf s⟩

end Sys2Proof.Laws
end

