-- ==== Sys2Proof/Laws/Invariant.lean ====
section
/-!
SUPPORT. How the invariant is met: by a state that agrees with one that meets it, and by an idle state whose data are in
range; and the facts about a microprogram's slots that its clauses are stated with.
-/

namespace Sys2Proof.Laws

open Sys2Proof.Machine

/-- The invariant says nothing of `LASTD`, the host's inputs and the last reply. -/
theorem Invariant_of_eq {s t : State} (h : Invariant s)
    (e : t = { s with lastd := t.lastd, inputs := t.inputs, reply := t.reply }) : Invariant t := by
  rw [e]
  exact ⟨h.1, h.2, h.3, h.4, h.5, h.6, h.7, h.8, h.9, h.10, h.11, h.12, h.13, h.14, h.15, h.16, h.17, h.18, h.19,
    h.20, h.21, h.22, h.23, h.24, h.25⟩

/-- The part of the invariant that does not depend on where the sequencer is. -/
structure DataInRange (s : State) : Prop where
  params_valid : s.params.valid = true
  reserved_bit : s.status.getLsbD 7 = false
  dig_wf : Memory.wf s.dig = true
  dig_bound : ∀ i, s.params.ndig ≤ i → Memory.read s.dig i = none
  regs_fit : ∀ r v, s.regs.get r = .value v → v < 2 ^ s.params.w
  p_fits : ∀ v, s.p = .value v → v < 2 ^ s.params.w
  mc_fits : ∀ v, s.mc = .value v → v < 2 ^ s.params.w
  trace_slots : ∀ e ∈ s.trace, slotEvent e.unit (e.slot - 1) = some e
  not_injected : s.injected = none

theorem Invariant_data {s : State} (h : Invariant s) : DataInRange s :=
  ⟨h.1, h.3, h.7, h.8, h.9, h.10, h.11, h.trace_slots, h.not_injected⟩

/-- An idle state whose data are in range meets the invariant. -/
theorem Invariant_idle {s : State} (d : DataInRange s) (hu : s.unit = .idle) (hn : s.upc = 0)
    (hb : flag .busy s = false)
    (ho : flag .outValid s = true → s.regs.xa ≠ .unwritten ∧ s.regs.ya ≠ .unwritten) : Invariant s where
  params_valid := d.1
  reserved_bit := d.2
  dig_wf := d.3
  dig_bound := d.4
  regs_fit := d.5
  p_fits := d.6
  mc_fits := d.7
  trace_slots := d.8
  not_injected := d.9
  busy_iff := by simp [hb, hu]
  done_idle := fun _ => hu
  valid_idle := fun _ => hu
  upc_bound := by simp [hu, romLength, hn]
  modulus_good := fun h => absurd hu h
  unit_serves := by simp [hu, unitServes]
  cur_digit := by simp [atDigit, hu]
  len_bound := by simp [inDriver, atDigit, hu]
  dpos_digit := by simp [atDigit, hu]
  dpos_driver := by simp [hu]
  slots_held := by simp [hn, writtenBefore, readBefore]
  scratch_unwritten := by simp [hu, usesScratch]
  converter_square := by simp [hu]
  converter_nonzero := by simp [hu]
  point_holds := by simp [hu, afterInit]
  out_written := ho

/-- A core whose unit is not idle is busy, and conversely (R31). -/
theorem Invariant_idle_of_not_busy {s : State} (h : Invariant s) (hb : flag .busy s = false) : s.unit = .idle := by
  by_contra hne
  rw [h.busy_iff.mpr hne] at hb
  cases hb

/-- Outside the microprograms `UPC` is 0. -/
theorem Invariant_upc_idle {s : State} (h : Invariant s) (hu : s.unit = .idle) : s.upc = 0 := by
  simpa [hu, romLength] using h.upc_bound

theorem writtenBefore_succ (u : SeqUnit) (k : Nat) (r : Reg) :
    writtenBefore u (k + 1) r = (writtenBefore u k r || slotWrites u k r) := by
  simp [writtenBefore, List.range_succ, List.any_append]

theorem readBefore_succ (u : SeqUnit) (k : Nat) (r : Reg) :
    readBefore u (k + 1) r = (readBefore u k r || slotReads u k r) := by
  simp [readBefore, List.range_succ, List.any_append]

/-- The result of a micro-operation is canonical (R76). -/
theorem microResult_lt {k : OpKind} {sa : Reg} {sb : Option Reg} {s : State} {v p : Nat}
    (h : microResult k sa sb s = .ok v) (hp : s.p = .value p) : v < p := by
  obtain ⟨a, b, q, mc, ha, hb, hq, -, hf⟩ := microResult_ok.mp h
  obtain rfl : p = q := by simpa [hp] using hq
  have reads : ∀ {r w}, readReg r s = .ok w → w < p := fun hr => by
    obtain ⟨-, q, hq, hlt⟩ := readReg_ok.mp hr
    obtain rfl : p = q := by simpa [hp] using hq
    exact hlt
  have hap := reads ha
  have hbp : b < p := by
    cases sb with
    | none => simp [readSecond] at hb; omega
    | some r => exact reads hb
  rcases fieldPort_ok.mp hf with ⟨-, rfl⟩ | ⟨-, rfl⟩ | ⟨-, rfl⟩ | ⟨-, rfl⟩ | ⟨-, -, rfl⟩
  · exact fpMul_lt _ _ _ _ (by omega)
  · exact fpAdd_lt hap hbp
  · exact fpSub_lt hap hbp
  · exact hap
  · exact fpInv_lt _ _ (by omega)

end Sys2Proof.Laws
end

