-- ==== Sys2Proof/Laws/PerInstr.lean ====
section
/-!
SUPPORT. For each instruction: decoding what the encoder writes gives the instruction back.
-/

namespace Sys2Proof.Laws

/-! ### The fields of a word (R57) -/

theorem joinFields_toNat (op dst sa sb : BitVec 4) :
    (joinFields op dst sa sb).toNat = ((op.toNat * 16 + dst.toNat) * 16 + sa.toNat) * 16 + sb.toNat := by
  have key : ∀ {n : Nat} (x : BitVec n) (y : BitVec 4), (x ++ y).toNat = x.toNat * 16 + y.toNat := by
    intro n x y
    rw [BitVec.toNat_append, ← Nat.shiftLeft_add_eq_or_of_lt y.isLt, Nat.shiftLeft_eq]
  calc (joinFields op dst sa sb).toNat = (op ++ dst ++ sa ++ sb).toNat := rfl
    _ = _ := by rw [key, key, key]

section Fields
variable (op dst sa sb : BitVec 4)
@[simp] theorem opField_joinFields : opField (joinFields op dst sa sb) = op := by
  apply BitVec.eq_of_toNat_eq
  simp only [opField, BitVec.extractLsb'_toNat, Nat.shiftRight_eq_div_pow, joinFields_toNat]; omega
@[simp] theorem dstField_joinFields : dstField (joinFields op dst sa sb) = dst := by
  apply BitVec.eq_of_toNat_eq
  simp only [dstField, BitVec.extractLsb'_toNat, Nat.shiftRight_eq_div_pow, joinFields_toNat]; omega
@[simp] theorem saField_joinFields : saField (joinFields op dst sa sb) = sa := by
  apply BitVec.eq_of_toNat_eq
  simp only [saField, BitVec.extractLsb'_toNat, Nat.shiftRight_eq_div_pow, joinFields_toNat]; omega
@[simp] theorem sbField_joinFields : sbField (joinFields op dst sa sb) = sb := by
  apply BitVec.eq_of_toNat_eq
  simp only [sbField, BitVec.extractLsb'_toNat, Nat.shiftRight_eq_div_pow, joinFields_toNat]; omega
end Fields

@[simp] theorem regOfIndex_regIndex (r : Reg) : regOfIndex (regIndex r) = some r := by
  cases r <;> rfl

/-- `OP = word[15:12]` is the word's value divided by 4096. -/
theorem opField_toNat (w : MicroWord) : (opField w).toNat = w.toNat / 4096 := by
  have := w.isLt
  simp only [opField, BitVec.extractLsb'_toNat, Nat.shiftRight_eq_div_pow]
  omega

theorem decodeMicro_two {k : OpKind} {dst sa sb : Reg} {make : Reg → Reg → Reg → Instr} (h : dst.legalDst = true) :
    decodeTwo (microWord k dst sa (some sb)) make = .ok (make dst sa sb) := by
  simp [decodeTwo, decodeDst, microWord, h]

theorem decodeMicro_one {k : OpKind} {dst sa : Reg} {make : Reg → Reg → Instr} (h : dst.legalDst = true) :
    decodeOne (microWord k dst sa none) make = .ok (make dst sa) := by
  simp [decodeOne, decodeDst, microWord, h]

@[simp] theorem opField_microWord (k : OpKind) (dst sa : Reg) (sb : Option Reg) :
    opField (microWord k dst sa sb) = opCode k := by simp [microWord]

end Sys2Proof.Laws

/-- Decoding the encoding of a well-formed instruction gives the instruction. -/
def Sys2Proof.Laws.DecodeEncode.Statement (i : Sys2Proof.Instr) : Prop :=
  Sys2Proof.wellFormed i = true → Sys2Proof.decode (Sys2Proof.encode i) = .ok i

namespace Sys2Proof.Laws.DecodeEncode

theorem fmul (dst sa sb : Reg) : Statement (.fmul dst sa sb) := fun h => by
  simpa [decode, encode, decodeMicro, opCode] using decodeMicro_two h
theorem fadd (dst sa sb : Reg) : Statement (.fadd dst sa sb) := fun h => by
  simpa [decode, encode, decodeMicro, opCode] using decodeMicro_two h
theorem fsub (dst sa sb : Reg) : Statement (.fsub dst sa sb) := fun h => by
  simpa [decode, encode, decodeMicro, opCode] using decodeMicro_two h
theorem fcpy (dst sa : Reg) : Statement (.fcpy dst sa) := fun h => by
  simpa [decode, encode, decodeMicro, opCode] using decodeMicro_one h
theorem finv (dst sa : Reg) : Statement (.finv dst sa) := fun h => by
  simpa [decode, encode, decodeMicro, opCode] using decodeMicro_one h
theorem reservedOp (word : MicroWord) : Statement (.reservedOp word) := fun h => by
  simp only [wellFormed, reservedOpField, Bool.or_eq_true, beq_iff_eq, decide_eq_true_eq] at h
  simp only [decode, encode, decodeMicro, opField_toNat]
  split <;> first | rfl | omega
theorem romInit1 : Statement .romInit1 := fun _ => rfl
theorem romInit2 : Statement .romInit2 := fun _ => rfl
theorem romInit3 : Statement .romInit3 := fun _ => rfl
theorem romInit4 : Statement .romInit4 := fun _ => rfl
theorem romInit5 : Statement .romInit5 := fun _ => rfl
theorem romDbl1 : Statement .romDbl1 := fun _ => rfl
theorem romDbl2 : Statement .romDbl2 := fun _ => rfl
theorem romDbl3 : Statement .romDbl3 := fun _ => rfl
theorem romDbl4 : Statement .romDbl4 := fun _ => rfl
theorem romDbl5 : Statement .romDbl5 := fun _ => rfl
theorem romDbl6 : Statement .romDbl6 := fun _ => rfl
theorem romDbl7 : Statement .romDbl7 := fun _ => rfl
theorem romDbl8 : Statement .romDbl8 := fun _ => rfl
theorem romDbl9 : Statement .romDbl9 := fun _ => rfl
theorem romDbl10 : Statement .romDbl10 := fun _ => rfl
theorem romDbl11 : Statement .romDbl11 := fun _ => rfl
theorem romDbl12 : Statement .romDbl12 := fun _ => rfl
theorem romDbl13 : Statement .romDbl13 := fun _ => rfl
theorem romDbl14 : Statement .romDbl14 := fun _ => rfl
theorem romDbl15 : Statement .romDbl15 := fun _ => rfl
theorem romDbl16 : Statement .romDbl16 := fun _ => rfl
theorem romDbl17 : Statement .romDbl17 := fun _ => rfl
theorem romDbl18 : Statement .romDbl18 := fun _ => rfl
theorem romDbl19 : Statement .romDbl19 := fun _ => rfl
theorem romDbl20 : Statement .romDbl20 := fun _ => rfl
theorem romDbl21 : Statement .romDbl21 := fun _ => rfl
theorem romAdd1 : Statement .romAdd1 := fun _ => rfl
theorem romAdd2 : Statement .romAdd2 := fun _ => rfl
theorem romAdd3 : Statement .romAdd3 := fun _ => rfl
theorem romAdd4 : Statement .romAdd4 := fun _ => rfl
theorem romAdd5 : Statement .romAdd5 := fun _ => rfl
theorem romAdd6 : Statement .romAdd6 := fun _ => rfl
theorem romAdd7 : Statement .romAdd7 := fun _ => rfl
theorem romAdd8 : Statement .romAdd8 := fun _ => rfl
theorem romAdd9 : Statement .romAdd9 := fun _ => rfl
theorem romAdd10 : Statement .romAdd10 := fun _ => rfl
theorem romAdd11 : Statement .romAdd11 := fun _ => rfl
theorem romAdd12 : Statement .romAdd12 := fun _ => rfl
theorem romAdd13 : Statement .romAdd13 := fun _ => rfl
theorem romAdd14 : Statement .romAdd14 := fun _ => rfl
theorem romAdd15 : Statement .romAdd15 := fun _ => rfl
theorem romAdd16 : Statement .romAdd16 := fun _ => rfl
theorem romAdd17 : Statement .romAdd17 := fun _ => rfl
theorem romAdd18 : Statement .romAdd18 := fun _ => rfl
theorem romAdd19 : Statement .romAdd19 := fun _ => rfl
theorem romAdd20 : Statement .romAdd20 := fun _ => rfl
theorem romAdd21 : Statement .romAdd21 := fun _ => rfl
theorem romAffOne1 : Statement .romAffOne1 := fun _ => rfl
theorem romAffOne2 : Statement .romAffOne2 := fun _ => rfl
theorem romAffOne3 : Statement .romAffOne3 := fun _ => rfl
theorem romAffOne4 : Statement .romAffOne4 := fun _ => rfl
theorem romAffOne5 : Statement .romAffOne5 := fun _ => rfl
theorem romAffOne6 : Statement .romAffOne6 := fun _ => rfl
theorem romAffZero1 : Statement .romAffZero1 := fun _ => rfl
theorem romAffZero2 : Statement .romAffZero2 := fun _ => rfl
theorem romAffZero3 : Statement .romAffZero3 := fun _ => rfl
theorem romAffZero4 : Statement .romAffZero4 := fun _ => rfl
theorem cmdDbl : Statement .cmdDbl := fun _ => rfl
theorem cmdAdd : Statement .cmdAdd := fun _ => rfl
theorem cmdSmul : Statement .cmdSmul := fun _ => rfl
theorem cmdAff : Statement .cmdAff := fun _ => rfl
theorem cmdKp : Statement .cmdKp := fun _ => rfl
theorem symZero : Statement .symZero := fun _ => rfl
theorem symOne : Statement .symOne := fun _ => rfl
theorem cmdIllegal (code : Code) : Statement (.cmdIllegal code) := fun h => by
  simp only [wellFormed, Bool.or_eq_true, beq_iff_eq, decide_eq_true_eq] at h
  simp only [decode, encode, decodeCommand]
  split <;> first | rfl | omega
theorem symMalformed (symbol : Symbol) : Statement (.symMalformed symbol) := fun h => by
  simp only [wellFormed, Bool.and_eq_true, bne_iff_ne, ne_eq] at h
  simp [decode, encode, decodeSymbol, h]

end Sys2Proof.Laws.DecodeEncode
end

