-- ==== Sys2Proof/Laws/Sequencer.lean ====
section
/-!
SUPPORT. The step split by who takes it: one lemma for each kind of host input, and all that a step of the sequencer
can be.
-/

namespace Sys2Proof.Laws

open Sys2Proof.Machine

/-- The sequencer's own step, without the host's schedule (R142). -/
def sequencerStep (s : State) : Result :=
  match sequencerItem s with
  | none => sequencerControl s
  | some (it, t) =>
    match decode it with
    | .ok i => exec i t
    | .error e => .fault (.illegalMicroOp e.theWord)

/-! ## The host's schedule (log entry 5) -/

theorem step_nil {s : State} (h : s.inputs = []) : step s = sequencerStep s := by
  rw [step_of_none (by rw [h]; rfl)]
  unfold attempt sequencerStep
  simp only [nextItem, controlStep, h] <;> rfl

theorem step_tick {s : State} {rest : List Input} (h : s.inputs = .tick :: rest) :
    step s = faultExit s (sequencerStep { s with inputs := rest }) := by
  unfold step attempt sequencerStep
  simp only [nextItem, controlStep, h] <;> rfl

theorem step_wait {s : State} {rest : List Input} (h : s.inputs = .waitDone :: rest) (hd : flag .done s = false) :
    step s = faultExit s (sequencerStep s) := by
  unfold step attempt sequencerStep
  simp only [nextItem, controlStep, h, hd]; rfl

theorem step_wait_over {s : State} {rest : List Input} (h : s.inputs = .waitDone :: rest)
    (hd : flag .done s = true) : step s = .next (answer (.value s.status.toNat) { s with inputs := rest }) :=
  step_of_next (by simp [attempt, nextItem, controlStep, h, hd])

theorem step_read {s : State} {ha : Nat} {rest : List Input} (h : s.inputs = .read ha :: rest) :
    step s = .next (hostRead ha { s with inputs := rest }) :=
  step_of_next (by simp [attempt, nextItem, controlStep, h])

theorem step_reset {s : State} {rest : List Input} (h : s.inputs = .reset :: rest) :
    step s = .next (resetEvent { s with inputs := rest }) :=
  step_of_next (by simp [attempt, nextItem, controlStep, h])

/-- A legal write to `CMD` runs the command. -/
theorem step_command {s : State} {v : Nat} {rest : List Input} (h : s.inputs = .write 0x0000 v :: rest)
    (hl : hostWriteLegal 0x0000 v s = true) :
    step s = faultExit s (exec (decodeCommand (BitVec.ofNat 8 v)) { s with inputs := rest }) := by
  rw [step, attempt_item (it := .command (BitVec.ofNat 8 v)) (t := { s with inputs := rest }) (by simp [nextItem, h, hl]) rfl]

/-- Any other write is a store or a refusal. -/
theorem step_write {s : State} {ha v : Nat} {rest : List Input} (h : s.inputs = .write ha v :: rest)
    (hc : ¬ (ha = 0x0000 ∧ hostWriteLegal ha v s = true)) :
    step s = .next (hostWrite ha v { s with inputs := rest }) :=
  step_of_next (by simp only [attempt, nextItem, h, hc, if_false, controlStep])

/-! ## The sequencer's steps -/

/-- All that a step of the sequencer can be, when no word is injected: the slot at `UPC` of its ROM, the symbol at
`DPOS`, or a step that decodes nothing. -/
theorem sequencerStep_cases {s : State} (hinj : s.injected = none) :
    (∃ op dst sa sb, s.upc < romLength s.unit ∧ slotFields s.unit s.upc = some (op, dst, sa, sb) ∧
      dst.legalDst = true ∧ sequencerStep s = microStep op dst sa sb s) ∨
    (∃ c, s.unit = .fetch ∧ s.dpos.toNat < s.len.toNat ∧ s.dpos.toNat < s.params.ndig ∧
      Memory.read s.dig s.dpos.toNat = some c ∧ sequencerStep s = exec (decodeSymbol c) s) ∨
    (sequencerItem s = none ∧ sequencerStep s = sequencerControl s) := by
  unfold sequencerStep
  cases hs : sequencerItem s with
  | none => exact .inr (.inr ⟨rfl, rfl⟩)
  | some q =>
    obtain ⟨it, t⟩ := q
    obtain ⟨rfl, ⟨w, hw, rfl⟩ | ⟨c, hu, h1, h2, h3, rfl⟩⟩ := sequencerItem_some hinj hs
    · have hk := romWord_isSome.mp (by simp [hw] : (romWord t.unit t.upc).isSome)
      obtain ⟨i, hi⟩ : ∃ i, romRow t.unit t.upc = some i :=
        Option.isSome_iff_exists.mp (by simpa [romRow, romRows_length] using hk)
      have hd := decode_slot hw hi
      obtain ⟨op, dst, sa, sb, hf, hdst, hex⟩ := exec_slot hw hd
      refine .inl ⟨op, dst, sa, sb, hk, hf, hdst, ?_⟩
      dsimp only
      rw [hd]
      dsimp only
      rw [hex, slotStep_at rfl rfl]
    · exact .inr (.inl ⟨c, hu, h1, h2, h3, rfl⟩)

/-- Where the `FIN` step goes under `KP`, unless the policy is `ABORT` and a malformed symbol stopped the loop. -/
theorem afterFin_converter {s : State} (hc : s.cmdr = 0x05#8)
    (h : flag .errDigit s = false ∨ s.params.policy = .normalizePartial) : afterFin s = setUnit .affsel s :=
  if_pos ⟨hc, h⟩

theorem afterFin_finish {s : State}
    (h : ¬ (s.cmdr = 0x05#8 ∧ (flag .errDigit s = false ∨ s.params.policy = .normalizePartial))) :
    afterFin s = finish s :=
  if_neg h

/-- All the fetch step can do when it decodes no symbol and answers a state. -/
theorem fetchControl_next {s t : State} (h : fetchControl s = .next t) :
    t = setUnit .fin s ∨ (t = s ∧ s.dpos.toNat < s.len.toNat ∧ ∃ c, readDigit s.dpos.toNat s = .ok c) := by
  unfold fetchControl at h
  split at h
  · cases h; exact .inl rfl
  · rename_i hlt
    split at h
    · cases h
    · rename_i c hc
      cases h
      exact .inr ⟨rfl, by omega, c, hc⟩

/-- All the `FIN` step can do when it answers a state: the latch, then the continuation. -/
theorem finStep_next {s t : State} (h : finStep s = .next t) :
    (s.len = 0#16 ∧ t = afterFin (setLastd 0x00#8 s)) ∨
    (s.len ≠ 0#16 ∧ ∃ c, readDigit (s.len.toNat - 1) s = .ok c ∧ t = afterFin (setLastd c s)) := by
  unfold finStep at h
  split at h
  · cases h; exact .inl ⟨by assumption, rfl⟩
  · rename_i hl
    split at h
    · cases h
    · rename_i c hc
      cases h
      exact .inr ⟨hl, c, hc, rfl⟩

/-- A read of `DIG` by the sequencer answers the symbol written there. -/
theorem readDigit_ok {i : Nat} {s : State} {c : Symbol} :
    readDigit i s = .ok c ↔ i < s.params.ndig ∧ Memory.read s.dig i = some c := by
  unfold readDigit
  split
  · cases Memory.read s.dig i <;> simp_all
  · simp_all

end Sys2Proof.Laws
end

