-- ==== Sys2Proof/Tests/Slice0.lean ====
section
/-!
SUPPORT. Tests. Every expected value is one the spec writes out: the encodings of R57 to R69, the listings of R91, R99,
R109, R125, R126, and the derived vectors V1 to V20 of `95_test_vectors.md`; the setting is E23 (`W = 8`, `p = 23`,
`mc = 0`). After them, for every obligation with hypotheses, a witness: a state and operands that meet them together.
-/

namespace Sys2Proof.Tests

open Sys2Proof.Machine Sys2Proof.Laws

/-! ## Settings -/

/-- Setting E23, with a small digit buffer. -/
def e23 : Params := { w := 8, ndig := 8, policy := .abort, provider := .reference }

/-- A register file from the Point, the addend and the five scratch registers. -/
def file (x y z z2 z3 ax ay : Nat) : RegFile :=
  { RegFile.unwritten with
    x := .value x, y := .value y, z := .value z, z2 := .value z2, z3 := .value z3, ax := .value ax, ay := .value ay }

/-- An idle core of setting E23 with `P` and `MC` written. -/
def core (f : RegFile) : State := { State.resetWith e23 with regs := f, p := .value 23, mc := .value 0 }

/-- A core of setting E23 with `DIG`, `LEN` and the addend `G = (2, 7)` written. -/
def scalar (symbols : List Nat) : State :=
  { core (file 2 7 1 1 1 2 7) with
    dig := symbols.mapIdx fun i c => (i, BitVec.ofNat 8 c)
    len := BitVec.ofNat 16 symbols.length }

/-- The core inside a microprogram, at index `k` of `ROM.<u>`, under command `c`. -/
def inside (u : SeqUnit) (k : Nat) (c : Code) (f : RegFile) : State :=
  { core f with unit := u, upc := k, status := 0x01#8, cmdr := c }

/-- Whether the result is a next state in which `check` holds. -/
def goesTo (r : Result) (check : State → Bool) : Bool :=
  match r with
  | .next t => check t
  | _ => false

/-- Whether the result is the model fault `f`. -/
def faultsWith (r : Result) (f : Fault) : Bool :=
  match r with
  | .fault g => g == f
  | _ => false

/-! ## Well-formedness: one ill-formed term for each check -/

theorem test_wf_destinations :
    wellFormed (.fmul .ax .x .x) = false ∧ wellFormed (.fadd .ay .x .x) = false ∧
    wellFormed (.fsub .one .x .x) = false ∧ wellFormed (.fcpy .ax .x) = false ∧ wellFormed (.finv .one .x) = false ∧
    wellFormed (.fmul .xa .x .r1) = true ∧ wellFormed (.fcpy .z .one) = true := by decide

theorem test_wf_reserved_op : wellFormed (.reservedOp 0x1227#16) = false ∧ wellFormed (.reservedOp 0x5650#16) = false ∧
    wellFormed (.reservedOp 0x0FFF#16) = true ∧ wellFormed (.reservedOp 0x6000#16) = true := by decide

theorem test_wf_codes : wellFormed (.cmdIllegal 0x01#8) = false ∧ wellFormed (.cmdIllegal 0x05#8) = false ∧
    wellFormed (.cmdIllegal 0x06#8) = true ∧ wellFormed (.cmdIllegal 0x00#8) = true := by decide

theorem test_wf_symbols : wellFormed (.symMalformed 0x30#8) = false ∧ wellFormed (.symMalformed 0x31#8) = false ∧
    wellFormed (.symMalformed 0x78#8) = true := by decide

/-! ## Decoding -/

/-- Words written bit by bit, `OP DST SA SB` (R57, R58, R59). -/
theorem test_decode_bits :
    decodeMicro 0b0001_0010_0010_0111#16 = .ok (.fmul .z .z .r2) ∧
    decodeMicro 0b0010_0111_0001_0001#16 = .ok (.fadd .r2 .y .y) ∧
    decodeMicro 0b0011_0101_0101_0110#16 = .ok (.fsub .r0 .r0 .r1) ∧
    decodeMicro 0b0100_1001_0110_0000#16 = .ok (.fcpy .t0 .r1) ∧
    decodeMicro 0b0101_0110_0101_0000#16 = .ok (.finv .r1 .r0) ∧
    decodeMicro 0b0001_1101_1011_1010#16 = .ok (.fmul .ya .ay .ax) ∧
    decodeMicro 0b1111_0000_0000_0000#16 = .ok (.reservedOp 0xF000#16) ∧
    decodeMicro 0b0000_1111_1111_1111#16 = .ok (.reservedOp 0x0FFF#16) := by decide

/-- The table's own rows, one word for each constructor that is no ROM word. -/
theorem test_decode_table_types :
    decodeTableWord 16 0x1001 = some (.fmul .x .x .y) ∧ decodeTableWord 16 0x2021 = some (.fadd .x .z .y) ∧
    decodeTableWord 16 0x3021 = some (.fsub .x .z .y) ∧ decodeTableWord 16 0x4010 = some (.fcpy .x .y) ∧
    decodeTableWord 16 0x5010 = some (.finv .x .y) ∧ decodeTableWord 16 0x0000 = some (.reservedOp 0#16) ∧
    decodeTableWord 8 0x00 = some (.cmdIllegal 0x00#8) ∧ decodeTableWord 8 0x01 = some .cmdDbl ∧
    decodeTableWord 8 0x02 = some .cmdAdd ∧ decodeTableWord 8 0x03 = some .cmdSmul ∧
    decodeTableWord 8 0x04 = some .cmdAff ∧ decodeTableWord 8 0x05 = some .cmdKp ∧
    decodeTableWord 8 0x30 = some .symZero ∧ decodeTableWord 8 0x31 = some .symOne ∧
    decodeTableWord 8 0x78 = some (.symMalformed 0x78#8) ∧ decodeTableWord 16 0x1A00 = none := by decide

/-- The words of `ROM.INIT` by the listing of R109, each decoded at its slot. -/
theorem test_decode_rom_init :
    [decode (.slot .init 0 0x40A0#16), decode (.slot .init 1 0x41B0#16), decode (.slot .init 2 0x42E0#16),
      decode (.slot .init 3 0x43E0#16), decode (.slot .init 4 0x44E0#16)] =
    [.ok .romInit1, .ok .romInit2, .ok .romInit3, .ok .romInit4, .ok .romInit5] := by decide

/-- The words of `ROM.DBL` by V19: shape bytes and low bytes. -/
theorem test_decode_rom_dbl :
    ((List.range 21).zip [0x1500, 0x1633, 0x3556, 0x4960, 0x2711, 0x1877, 0x1227, 0x1771, 0x1008, 0x1322, 0x2655,
      0x2565, 0x1655, 0x3960, 0x1778, 0x3890, 0x3008, 0x1550, 0x3157, 0x1423, 0x4080]).map
        (fun q => decode (.slot .dbl q.1 (BitVec.ofNat 16 q.2))) =
    [Instr.romDbl1, .romDbl2, .romDbl3, .romDbl4, .romDbl5, .romDbl6, .romDbl7, .romDbl8, .romDbl9, .romDbl10,
      .romDbl11, .romDbl12, .romDbl13, .romDbl14, .romDbl15, .romDbl16, .romDbl17, .romDbl18, .romDbl19, .romDbl20,
      .romDbl21].map Except.ok := by decide

/-- The words of `ROM.ADD` by V19. -/
theorem test_decode_rom_add :
    ((List.range 21).zip [0x15A3, 0x16B4, 0x3550, 0x4960, 0x2711, 0x1855, 0x1225, 0x1758, 0x1008, 0x1322, 0x2600,
      0x2576, 0x1617, 0x3991, 0x1799, 0x3875, 0x3008, 0x1590, 0x3156, 0x1423, 0x4080]).map
        (fun q => decode (.slot .add q.1 (BitVec.ofNat 16 q.2))) =
    [Instr.romAdd1, .romAdd2, .romAdd3, .romAdd4, .romAdd5, .romAdd6, .romAdd7, .romAdd8, .romAdd9, .romAdd10,
      .romAdd11, .romAdd12, .romAdd13, .romAdd14, .romAdd15, .romAdd16, .romAdd17, .romAdd18, .romAdd19, .romAdd20,
      .romAdd21].map Except.ok := by decide

/-- The words of `ROM.AFF1` and `ROM.AFF0` by V6 and R126. -/
theorem test_decode_rom_aff :
    [decode (.slot .aff1 0 0x1522#16), decode (.slot .aff1 1 0x5650#16), decode (.slot .aff1 2 0x1C06#16),
      decode (.slot .aff1 3 0x1525#16), decode (.slot .aff1 4 0x5650#16), decode (.slot .aff1 5 0x1D16#16),
      decode (.slot .aff0 0 0x5630#16), decode (.slot .aff0 1 0x1C06#16), decode (.slot .aff0 2 0x5640#16),
      decode (.slot .aff0 3 0x1D16#16)] =
    [.ok .romAffOne1, .ok .romAffOne2, .ok .romAffOne3, .ok .romAffOne4, .ok .romAffOne5, .ok .romAffOne6,
      .ok .romAffZero1, .ok .romAffZero2, .ok .romAffZero3, .ok .romAffZero4] := by decide

/-! ## The micro-operations (V2) -/

/-- `FMUL`: 22 * 22 = 1; aliasing, `FMUL Z, Z, R2` on 1 and 14 (V2). -/
theorem test_fmul :
    goesTo (exec (.fmul .r0 .x .y) (inside .dbl 0 1#8 (file 22 22 1 1 1 2 7))) (fun t => t.regs.r0 == .value 1) ∧
    goesTo (exec (.fmul .z .z .r2) (inside .dbl 6 1#8 { file 2 7 1 1 1 2 7 with r2 := .value 14 }))
      (fun t => t.regs.z == .value 14 && t.regs.r2 == .value 14 && t.upc == 7) := by decide

/-- `FADD`: 22 + 22 = 21, and 11 + 12 = 0 (V2). -/
theorem test_fadd :
    goesTo (exec (.fadd .r0 .x .y) (inside .dbl 0 1#8 (file 22 22 1 1 1 2 7))) (fun t => t.regs.r0 == .value 21) ∧
    goesTo (exec (.fadd .r0 .x .y) (inside .dbl 0 1#8 (file 11 12 1 1 1 2 7))) (fun t => t.regs.r0 == .value 0) := by
  decide

/-- `FSUB`: 5 - 18 = 10 and 18 - 5 = 13 (V2). -/
theorem test_fsub :
    goesTo (exec (.fsub .r0 .x .y) (inside .dbl 0 1#8 (file 5 18 1 1 1 2 7))) (fun t => t.regs.r0 == .value 10) ∧
    goesTo (exec (.fsub .r0 .y .x) (inside .dbl 0 1#8 (file 5 18 1 1 1 2 7))) (fun t => t.regs.r0 == .value 13) := by
  decide

/-- `FCPY` of a register, and of the hardwired one (R81, R19). -/
theorem test_fcpy :
    goesTo (exec (.fcpy .t0 .y) (inside .dbl 3 1#8 (file 5 18 1 1 1 2 7))) (fun t => t.regs.t0 == .value 18) ∧
    goesTo (exec (.fcpy .z .one) (inside .init 2 3#8 (file 5 18 9 9 9 2 7))) (fun t => t.regs.z == .value 1) := by
  decide

/-- `FINV`: 12 to 2, and the fault for 0 (the inverse table; V1). -/
theorem test_finv :
    goesTo (exec (.finv .r1 .z2) (inside .aff0 0 4#8 (file 1 1 14 12 7 2 7))) (fun t => t.regs.r1 == .value 2) ∧
    faultsWith (exec (.finv .r1 .z2) (inside .aff0 0 4#8 (file 1 1 0 0 0 2 7))) .finvZero := by decide

/-- A reserved word stops (R61); a non-canonical operand faults (V1, V20 i), an unwritten one too (V20 g). -/
theorem test_operand_faults :
    faultsWith (exec (.reservedOp 0x6123#16) (core (file 2 7 1 1 1 2 7))) (.illegalMicroOp 0x6123#16) ∧
    faultsWith (exec .romDbl1 (inside .dbl 0 1#8 (file 23 7 1 1 1 2 7))) (.nonCanonical .x) ∧
    faultsWith (exec .romDbl1 (inside .dbl 0 1#8 RegFile.unwritten)) (.unwrittenRead (.reg .x)) := by decide

/-! ## The rows of the ROMs -/

/-- Whether each row, run on the file that the rows before it leave, writes its value and goes on to the next slot. -/
def rowsWrite (u : SeqUnit) (c : Code) (rows : List (Instr × Reg × Nat)) (entry : RegFile) : Bool :=
  (List.range rows.length).all fun k =>
    match rows[k]? with
    | none => false
    | some (i, dst, v) =>
      goesTo (exec i (inside u k c ((rows.take k).foldl (fun f q => f.set q.2.1 (.value q.2.2)) entry)))
        fun t => t.regs.get dst == .value v && (t.upc == k + 1 || (k + 1 == rows.length && t.upc == 0)) &&
          t.trace.length == 1

/-- `ROM.INIT` on `G = (2, 7)` (R109; V13, string `1`). -/
theorem test_rows_init : rowsWrite .init 3#8 [(.romInit1, .x, 2), (.romInit2, .y, 7), (.romInit3, .z, 1),
    (.romInit4, .z2, 1), (.romInit5, .z3, 1)] (file 0 0 0 0 0 2 7) = true := by decide

/-- `ROM.DBL`, every slot, by V3. -/
theorem test_rows_dbl : rowsWrite .dbl 1#8 [(.romDbl1, .r0, 4), (.romDbl2, .r1, 1), (.romDbl3, .r0, 3),
    (.romDbl4, .t0, 1), (.romDbl5, .r2, 14), (.romDbl6, .r3, 12), (.romDbl7, .z, 14), (.romDbl8, .r2, 6),
    (.romDbl9, .x, 1), (.romDbl10, .z2, 12), (.romDbl11, .r1, 6), (.romDbl12, .r0, 9), (.romDbl13, .r1, 12),
    (.romDbl14, .t0, 11), (.romDbl15, .r2, 3), (.romDbl16, .r3, 10), (.romDbl17, .x, 14), (.romDbl18, .r0, 11),
    (.romDbl19, .y, 8), (.romDbl20, .z3, 7), (.romDbl21, .x, 10)] (file 2 7 1 1 1 2 7) = true := by decide

/-- `ROM.ADD`, every slot, by V5. -/
theorem test_rows_add : rowsWrite .add 2#8 [(.romAdd1, .r0, 1), (.romAdd2, .r1, 3), (.romAdd3, .r0, 14),
    (.romAdd4, .t0, 3), (.romAdd5, .r2, 16), (.romAdd6, .r3, 12), (.romAdd7, .z, 12), (.romAdd8, .r2, 7),
    (.romAdd9, .x, 5), (.romAdd10, .z2, 6), (.romAdd11, .r1, 10), (.romAdd12, .r0, 17), (.romAdd13, .r1, 10),
    (.romAdd14, .t0, 18), (.romAdd15, .r2, 2), (.romAdd16, .r3, 8), (.romAdd17, .x, 20), (.romAdd18, .r0, 15),
    (.romAdd19, .y, 5), (.romAdd20, .z3, 3), (.romAdd21, .x, 8)] (file 10 8 14 12 7 2 7) = true := by decide

/-- `ROM.AFF1` on 3G, every slot, by V6. -/
theorem test_rows_aff1 : rowsWrite .aff1 4#8 [(.romAffOne1, .r0, 6), (.romAffOne2, .r1, 4), (.romAffOne3, .xa, 9),
    (.romAffOne4, .r0, 3), (.romAffOne5, .r1, 8), (.romAffOne6, .ya, 17)] (file 8 5 12 6 3 2 7) = true := by decide

/-- `ROM.AFF0` on 2G, every slot, by V7. -/
theorem test_rows_aff0 : rowsWrite .aff0 4#8 [(.romAffZero1, .r1, 2), (.romAffZero2, .xa, 20), (.romAffZero3, .r1, 10),
    (.romAffZero4, .ya, 11)] (file 10 8 14 12 7 2 7) = true := by decide

/-- Where the last slots go: `INIT` to the driver, `DBL` under `SMUL` to `ADD` for `'1'` and to the next digit for `'0'`
(R142); the converter's branches leave `STATUS` 0x62 and 0x22 (V7). -/
theorem test_last_slots :
    goesTo (exec .romInit5 (inside .init 4 3#8 (file 2 7 1 1 1 2 7))) (fun t => t.unit == .fetch && t.dpos == 1#16) ∧
    goesTo (exec .romDbl21 { inside .dbl 20 3#8 { file 1 8 14 12 7 2 7 with r3 := .value 10 } with cur := 0x31#8 })
      (fun t => t.unit == .add && t.upc == 0 && t.regs.r3 == .unwritten && t.dpos == 0#16) ∧
    goesTo (exec .romDbl21 { inside .dbl 20 3#8 { file 1 8 14 12 7 2 7 with r3 := .value 10 } with cur := 0x30#8 })
      (fun t => t.unit == .fetch && t.dpos == 1#16) ∧
    goesTo (exec .romAdd21 { inside .add 20 3#8 { file 1 8 14 12 7 2 7 with r3 := .value 10 } with cur := 0x31#8 })
      (fun t => t.unit == .fetch && t.dpos == 1#16) ∧
    goesTo (exec .romAffOne6 (inside .aff1 5 4#8 { file 8 5 12 6 3 2 7 with r1 := .value 8 }))
      (fun t => t.unit == .idle && t.status == 0x62#8) ∧
    goesTo (exec .romAffZero4 (inside .aff0 3 4#8 { file 10 8 14 12 7 2 7 with r1 := .value 10 }))
      (fun t => t.unit == .idle && t.status == 0x22#8) := by decide

/-! ## Commands (V20, R135) -/

theorem test_cmd_dbl :
    goesTo (exec .cmdDbl (core (file 2 7 1 1 1 2 7))) (fun t => t.unit == .dbl && t.status == 1#8 && t.cmdr == 1#8) ∧
    faultsWith (exec .cmdDbl (State.resetWith e23)) (.unwrittenRead .modulus) := by decide

/-- 21 is not prime (V20 f). -/
theorem test_cmd_add :
    goesTo (exec .cmdAdd (core (file 2 7 1 1 1 2 7))) (fun t => t.unit == .add && t.status == 1#8 && t.cmdr == 2#8) ∧
    faultsWith (exec .cmdAdd { core (file 2 7 1 1 1 2 7) with p := .value 21 }) (.badModulus 21) := by decide

/-- `LEN = NDIG + 1` (V20 o). -/
theorem test_cmd_smul :
    goesTo (exec .cmdSmul (core (file 2 7 1 1 1 2 7))) (fun t => t.unit == .init && t.status == 1#8) ∧
    faultsWith (exec .cmdSmul { core (file 2 7 1 1 1 2 7) with len := 9#16 }) (.lenOutOfRange 9#16) := by decide

theorem test_cmd_aff :
    goesTo (exec .cmdAff { core (file 2 7 1 1 1 2 7) with status := 0x62#8 })
      (fun t => t.unit == .affsel && t.status == 1#8) ∧
    faultsWith (exec .cmdAff { core RegFile.unwritten with mc := .unwritten }) (.unwrittenRead .constant) := by decide

theorem test_cmd_kp :
    goesTo (exec .cmdKp (core (file 2 7 1 1 1 2 7))) (fun t => t.unit == .init && t.cmdr == 5#8) ∧
    goesTo (exec .cmdKp (inside .dbl 3 1#8 (file 2 7 1 1 1 2 7)))
      (fun t => t == { inside .dbl 3 1#8 (file 2 7 1 1 1 2 7) with reply := .refused }) := by decide

/-- `STATUS = 0x12` with `P` unwritten (V20 b, c). -/
theorem test_cmd_illegal :
    goesTo (exec (.cmdIllegal 0x00#8) (State.resetWith e23)) (fun t => t.status == 0x12#8 && t.unit == .idle) ∧
    goesTo (exec (.cmdIllegal 0xFF#8) { State.resetWith e23 with status := 0x12#8 })
      (fun t => t.status == 0x12#8 && t.cmdr == 0xFF#8) := by decide

/-! ## Symbols and the driver (R111 to R115) -/

theorem test_symbols :
    goesTo (exec .symZero (core (file 2 7 1 1 1 2 7))) (fun t => t.unit == .dbl && t.cur == 0x30#8) ∧
    goesTo (exec .symOne (core (file 2 7 1 1 1 2 7))) (fun t => t.unit == .dbl && t.cur == 0x31#8) ∧
    goesTo (exec (.symMalformed 0x78#8) (inside .fetch 0 5#8 (file 2 7 1 1 1 2 7)))
      (fun t => t.unit == .fin && t.status == 0x05#8) := by decide

/-- `UnwrittenRead(DIG[1])` at the fetch step, `UnwrittenRead(DIG[0])` at `FIN` (V20 m, n), and the latch of the last
symbol (V13). -/
theorem test_driver :
    faultsWith (step { inside .fetch 0 5#8 (file 2 7 1 1 1 2 7) with dpos := 1#16, len := 2#16 })
      (.unwrittenRead (.dig 1)) ∧
    faultsWith (step { inside .fin 0 5#8 (file 2 7 1 1 1 2 7) with dpos := 1#16, len := 1#16 })
      (.unwrittenRead (.dig 0)) ∧
    goesTo (step { scalar [0x78] with unit := .fin, dpos := 1#16, status := 1#8, cmdr := 5#8 })
      (fun t => t.lastd == 0x78#8 && t.unit == .affsel) := by decide

/-- `STATUS = 0x0A` for `LASTD = 0x78` (V7). -/
theorem test_select : goesTo (step { inside .affsel 0 4#8 (file 10 8 14 12 7 2 7) with lastd := 0x78#8 })
    (fun t => t.status == 0x0A#8 && t.unit == .idle && t.trace.length == 0) := by decide

/-! ## The host (V20 a, q, r) -/

theorem test_host_reads :
    goesTo (step { State.resetWith e23 with inputs := [.read 0x0001] }) (fun t => t.reply == .value 0) ∧
    goesTo (step { core (file 2 7 1 1 1 2 7) with inputs := [.read 0x0015] }) (fun t => t.reply == .refused) ∧
    goesTo (step { core (file 2 7 1 1 1 2 7) with inputs := [.read 0x001C] }) (fun t => t.reply == .refused) ∧
    goesTo (step { core (file 2 7 1 1 1 2 7) with inputs := [.read 0x0011] }) (fun t => t.reply == .value 7) := by
  decide

theorem test_host_writes :
    goesTo (step { core (file 2 7 1 1 1 2 7) with inputs := [.write 0x0001 0] }) (fun t => t.reply == .refused) ∧
    goesTo (step { core (file 2 7 1 1 1 2 7) with inputs := [.write 0x1001 0x31] })
      (fun t => t.reply == .done && t.dig == [(1, 0x31#8)]) ∧
    goesTo (step { inside .dbl 3 1#8 (file 2 7 1 1 1 2 7) with inputs := [.write 0x0002 3] })
      (fun t => t.reply == .refused && t.len == 0#16 && t.upc == 3) := by decide

/-- The exit from a model fault: the slot reads an unwritten `X`, and the reset that comes later is what happens next
(R160, R170). -/
theorem test_reset_after_fault :
    goesTo (step { inside .dbl 0 1#8 RegFile.unwritten with inputs := [.tick, .read 0x0001, .reset, .tick] })
      (fun t => t.unit == .idle && t.status == 0x00#8 && t.p == .unwritten && t.inputs == [.tick]) := by decide

/-- A table word is what the next step after reset runs: a command code and a ROM word (log entry 7). -/
theorem test_fetch_word :
    goesTo (step (State.reset.withFetchWord 8 0x00)) (fun t => t.status == 0x12#8) ∧
    faultsWith (step (State.reset.withFetchWord 16 0x1500)) (.unwrittenRead (.reg .x)) ∧
    goesTo (step (State.reset.withFetchWord 8 0x31)) (fun t => t.unit == .dbl && t.cur == 0x31#8) := by decide

/-! ## Witnesses: invariants of concrete states -/

/-- Every entry of `FREG` that is storage. -/
def allRegs : List Reg := [.x, .y, .z, .z2, .z3, .r0, .r1, .r2, .r3, .t0, .ax, .ay, .xa, .ya]

theorem mem_allRegs {r : Reg} (h : r ≠ .one) : r ∈ allRegs := by cases r <;> first | decide | exact absurd rfl h

/-- Whether a register holds a canonical value for the modulus, if any. -/
def holdsCheck (s : State) (r : Reg) : Bool :=
  match s.regs.get r, s.p with
  | .value v, .value p => decide (v < p)
  | _, _ => false

theorem holds_of_check {s : State} {r : Reg} (h : holdsCheck s r = true) : Holds s r := by
  unfold holdsCheck at h
  split at h
  · rename_i v p hv hp
    exact ⟨v, p, hv, hp, by simpa using h⟩
  · cases h

/-- Whether what a register holds is below `2^w`. -/
def fitsCheck (w : Nat) : Content → Bool
  | .unwritten => true
  | .value v => decide (v < 2 ^ w)

theorem fits_of_check {w : Nat} {c : Content} (h : fitsCheck w c = true) {v : Nat} (hv : c = .value v) : v < 2 ^ w := by
  subst hv
  simpa [fitsCheck] using h

/-- The parts of the invariant about the data, on a state with an empty trace. -/
def dataCheck (s : State) : Bool :=
  s.params.valid && !s.status.getLsbD 7 && Memory.wf s.dig && s.dig.all (fun q => decide (q.1 < s.params.ndig)) &&
    allRegs.all (fun r => fitsCheck s.params.w (s.regs.get r)) && fitsCheck s.params.w s.p &&
    fitsCheck s.params.w s.mc && s.trace.isEmpty && s.injected.isNone

theorem read_none {m : Memory} {n i : Nat} (h : m.all (fun q => decide (q.1 < n)) = true) (hi : n ≤ i) :
    Memory.read m i = none := by
  induction m with
  | nil => rfl
  | cons q m ih =>
    simp only [List.all_cons, Bool.and_eq_true, decide_eq_true_eq] at h
    unfold Memory.read
    rw [if_neg (by omega)]
    exact ih h.2

theorem data_of_check {s : State} (h : dataCheck s = true) : DataInRange s := by
  simp only [dataCheck, Bool.and_eq_true, Bool.not_eq_true', List.isEmpty_iff, Option.isNone_iff_eq_none,
    List.all_eq_true (l := allRegs)] at h
  obtain ⟨⟨⟨⟨⟨⟨⟨⟨h1, h2⟩, h3⟩, h4⟩, h5⟩, h6⟩, h7⟩, h8⟩, h9⟩ := h
  refine ⟨h1, h2, h3, fun i hi => read_none h4 hi, fun r v hv => ?_, fun v => fits_of_check h6, fun v => fits_of_check h7,
    by simp [h8], h9⟩
  have h1 : r ≠ .one := by rintro rfl; cases hv
  exact fits_of_check (h5 r (mem_allRegs h1)) hv

/-- Whether the state is idle, between transactions, with its data in range. -/
def quietCheck (s : State) : Bool :=
  dataCheck s && s.unit == .idle && s.upc == 0 && !flag .busy s && !flag .outValid s && s.inputs.isEmpty

theorem quiet_of_check {s : State} (h : quietCheck s = true) : Quiet s := by
  simp only [quietCheck, Bool.and_eq_true, Bool.not_eq_true', List.isEmpty_iff, beq_iff_eq] at h
  obtain ⟨⟨⟨⟨⟨h1, h2⟩, h3⟩, h4⟩, h5⟩, h6⟩ := h
  exact ⟨Invariant_idle (data_of_check h1) h2 h3 h4 (by simp [h5]), h2, h6⟩

/-- Whether a running state with `DPOS = 1` and an empty trace meets the invariant. -/
def runCheck (s : State) : Bool :=
  dataCheck s && flag .busy s && !flag .done s && !flag .outValid s && s.unit != .idle &&
    (if romLength s.unit = 0 then s.upc == 0 else decide (s.upc < romLength s.unit)) &&
    s.p == .value 23 && s.mc == .value 0 && goodModulus s.params 23 && unitServes s.unit s.cmdr &&
    (!atDigit s || s.cur == 0x31#8 || (s.cur == 0x30#8 && s.unit == .dbl)) &&
    (!inDriver s || decide (s.len.toNat ≤ s.params.ndig)) && s.dpos == 1#16 && (!atDigit s || decide (1 < s.len.toNat)) &&
    allRegs.all (fun r => !(writtenBefore s.unit s.upc r || readBefore s.unit s.upc r) || holdsCheck s r) &&
    allRegs.all (fun r => !r.isScratch || !usesScratch s.unit || writtenBefore s.unit s.upc r ||
      s.regs.get r == .unwritten) &&
    (s.unit != .aff1 || s.upc != 1) &&
    (s.unit != .aff1 || decide (s.upc < 2) || (s.regs.r0 != .value 0 && s.regs.z != .value 0)) &&
    (!afterInit s || [Reg.x, .y, .z, .z2, .z3, .ax, .ay].all fun r => holdsCheck s r)

theorem invariant_of_runCheck {s : State} (h : runCheck s = true) : Invariant s := by
  simp only [runCheck, Bool.and_eq_true, Bool.or_eq_true, Bool.not_eq_true', bne_iff_ne, beq_iff_eq, decide_eq_true_eq,
    List.all_eq_true] at h
  obtain ⟨⟨⟨⟨⟨⟨⟨⟨⟨⟨⟨⟨⟨⟨⟨⟨⟨⟨h1, h2⟩, h3⟩, h4⟩, h5⟩, h6⟩, h7⟩, h8⟩, h9⟩, h10⟩, h11⟩, h12⟩, h13⟩, h14⟩, h15⟩, h16⟩,
    h17⟩, h18⟩, h19⟩ := h
  have d := data_of_check h1
  exact {
    params_valid := d.1
    busy_iff := by simp [h2, h5]
    reserved_bit := d.2
    done_idle := by simp [h3]
    valid_idle := by simp [h4]
    upc_bound := by split at h6 <;> simp_all
    dig_wf := d.3
    dig_bound := d.4
    regs_fit := d.5
    p_fits := d.6
    mc_fits := d.7
    modulus_good := fun _ => ⟨23, 0, h7, h8, h9⟩
    unit_serves := h10
    cur_digit := fun e => by rcases h11 with (h | h) | h <;> simp_all
    len_bound := fun e => by rcases h12 with h | h <;> simp_all
    dpos_digit := fun e => by rcases h14 with h | h <;> simp_all
    dpos_driver := fun _ => by simp [h13]
    slots_held := fun r h1 hw => by
      rcases h15 r (mem_allRegs h1) with h | h
      · simp_all
      · exact holds_of_check h
    scratch_unwritten := fun r hs hu hw => by
      have h1 : r ≠ .one := by rintro rfl; cases hs
      rcases h16 r (mem_allRegs h1) with ((h | h) | h) | h <;> simp_all
    converter_square := fun e e1 => by rcases h17 with h | h <;> simp_all
    converter_nonzero := fun e e2 => by
      rcases h18 with (h | h) | h
      · exact absurd e h
      · omega
      · exact h
    point_holds := fun e r hr => by
      rcases h19 with h | h
      · rw [e] at h; cases h
      · exact holds_of_check (h r (by cases r <;> simp_all [Reg.isPoint]))
    out_written := by simp [h4]
    trace_slots := d.8
    not_injected := d.9 }

theorem next_of_goesTo {r : Result} {f : State → Bool} (h : goesTo r f = true) : ∃ t, r = .next t ∧ f t = true := by
  unfold goesTo at h
  split at h
  · exact ⟨_, rfl, h⟩
  · cases h

theorem fault_of_check {r : Result} {f : Fault} (h : faultsWith r f = true) : r = .fault f := by
  unfold faultsWith at h
  split at h
  · rw [beq_iff_eq.mp h]
  · cases h

/-- In setting E23 a register that holds `v` represents `v`. -/
theorem means23 {s : State} {p mc v : Nat} {r : Reg} (hc : s.params.provider = .reference) (h : s.regs.get r = .value v)
    (hv : v < p) : Means s p mc r (v : ZMod p) :=
  ⟨v, h, hv, by simp [fieldOf, fpOne, fpBase, hc]⟩

theorem good23 : goodModulus e23 23 = true := by decide

/-- The core of setting E23 is configured. -/
theorem configured_core (f : RegFile) : Configured (core f) 23 0 := ⟨rfl, rfl, good23⟩

theorem configured_scalar (l : List Nat) : Configured (scalar l) 23 0 := ⟨rfl, rfl, good23⟩

/-- Under another policy. -/
def partialPolicy (s : State) : State := { s with params := { s.params with policy := .normalizePartial } }

/-! ## Witnesses: encoding and the provider -/

theorem witness_DecodeInvertsEncode : wellFormed (.fmul .x .x .y) = true ∧ wellFormed (.finv .ya .one) = true := by
  decide

/-- The least and the greatest legal words of `FMUL` and `FINV`, and words outside on both sides. -/
theorem witness_EveryMicroWordHasOneReading :
    legalWord 0x1000#16 ∧ legalWord 0x1DEE#16 ∧ legalWord 0x5DE0#16 ∧
    (¬ legalWord 0x0FFF#16 ∧ (0x0FFF#16).toNat / 4096 = 0) ∧ (¬ legalWord 0x6000#16 ∧ 6 ≤ (0x6000#16).toNat / 4096) ∧
    (¬ legalWord 0x1A00#16 ∧ 1 ≤ (0x1A00#16).toNat / 4096 ∧ (0x1A00#16).toNat / 4096 ≤ 5) ∧ ¬ legalWord 0x5DE1#16 := by
  unfold legalWord
  decide

theorem witness_CommandAndSymbolCodesDecode :
    (0x00#8).toNat = 0 ∧ 6 ≤ (0x06#8).toNat ∧ (0x2F#8 ≠ 0x30#8 ∧ 0x2F#8 ≠ 0x31#8) ∧ (0x32#8 ≠ 0x30#8 ∧ 0x32#8 ≠ 0x31#8) := by
  decide

/-- Setting E23 under the Montgomery provider. -/
def montgomery23 : Params := { e23 with provider := .montgomery }

/-- Canonical values at both ends. -/
theorem witness_ProviderIsAField : goodModulus e23 23 = true ∧ 0 < 23 ∧ 22 < 23 ∧ (22 ≠ 0) ∧ goodModulus montgomery23 23 = true := by
  decide

theorem witness_ProviderRepresentsTheField : goodModulus e23 23 = true ∧ (0 < 23 ∧ 22 < 23) ∧ 22 ≠ 0 := by decide

theorem witness_ReferenceAndMontgomeryInstances :
    goodModulus e23 23 = true ∧ e23.provider = .reference ∧ goodModulus montgomery23 23 = true ∧
    montgomery23.provider = .montgomery ∧ 22 < 23 ∧ 22 ≠ 0 := by decide

/-! ## Witnesses: the micro-operations -/

/-- `ROM.DBL` slot 7 of V3: `Z = 1`, `R2 = 14`. -/
def slot7 : State := inside .dbl 6 1#8 { file 2 7 1 1 1 2 7 with r2 := .value 14 }

theorem slot7_reads : Reads slot7 23 0 .z 1 ∧ Reads slot7 23 0 .r2 14 ∧ Reads slot7 23 0 .one 1 :=
  ⟨⟨by decide, rfl⟩, ⟨by decide, rfl⟩, ⟨by decide, rfl⟩⟩

theorem witness_FmulWritesTheProduct : slot7.p = .value 23 ∧ slot7.mc = .value 0 ∧ Reg.z.legalDst = true ∧
    Reads slot7 23 0 .z 1 ∧ Reads slot7 23 0 .r2 14 ∧ slot7.upc + 1 ≠ romLength slot7.unit ∧
    slot7.params.provider = .reference :=
  ⟨rfl, rfl, rfl, slot7_reads.1, slot7_reads.2.1, by decide, rfl⟩

theorem witness_FaddWritesTheSum : slot7.p = .value 23 ∧ slot7.mc = .value 0 ∧ Reg.r2.legalDst = true ∧
    Reads slot7 23 0 .r2 14 ∧ Reads slot7 23 0 .r2 14 ∧ slot7.upc + 1 ≠ romLength slot7.unit :=
  ⟨rfl, rfl, rfl, slot7_reads.2.1, slot7_reads.2.1, by decide⟩

theorem witness_FsubWritesTheDifference : slot7.p = .value 23 ∧ slot7.mc = .value 0 ∧ Reg.x.legalDst = true ∧
    Reads slot7 23 0 .z 1 ∧ Reads slot7 23 0 .r2 14 ∧ slot7.upc + 1 ≠ romLength slot7.unit :=
  ⟨rfl, rfl, rfl, slot7_reads.1, slot7_reads.2.1, by decide⟩

theorem witness_FcpyWritesItsSource : slot7.p = .value 23 ∧ slot7.mc = .value 0 ∧ Reg.t0.legalDst = true ∧
    Reads slot7 23 0 .one 1 ∧ slot7.upc + 1 ≠ romLength slot7.unit :=
  ⟨rfl, rfl, rfl, slot7_reads.2.2, by decide⟩

theorem witness_FinvWritesTheInverse : slot7.p = .value 23 ∧ slot7.mc = .value 0 ∧
    goodModulus slot7.params 23 = true ∧ Reg.r1.legalDst = true ∧ Reads slot7 23 0 .r2 14 ∧ 14 ≠ 0 ∧
    slot7.upc + 1 ≠ romLength slot7.unit :=
  ⟨rfl, rfl, good23, rfl, slot7_reads.2.1, by decide, by decide⟩

/-- A file with a value just out of range, an unwritten register and a zero. -/
def faulty : State := inside .dbl 6 1#8 { file 23 7 1 0 1 2 7 with t0 := .value 22 }

theorem witness_OperandFaultsComeInOrder :
    faulty.p = .value 23 ∧ faulty.mc = .value 0 ∧
    (microFields (.fmul .r0 .x .r1) = some (.mul, .r0, .x, some .r1) ∧ wellFormed (.fmul .r0 .x .r1) = true ∧
      faulty.regs.get .x = .value 23 ∧ 23 ≤ 23 ∧ Reg.x ≠ .one) ∧
    (microFields (.fcpy .r0 .r1) = some (.copy, .r0, .r1, none) ∧ wellFormed (.fcpy .r0 .r1) = true ∧
      faulty.regs.get .r1 = .unwritten ∧ Reg.r1 ≠ .one) ∧
    (microFields (.fsub .r0 .t0 .r1) = some (.sub, .r0, .t0, some .r1) ∧ wellFormed (.fsub .r0 .t0 .r1) = true ∧
      Reads faulty 23 0 .t0 22 ∧ faulty.regs.get .r1 = .unwritten) ∧
    (microFields (.fadd .r0 .t0 .x) = some (.add, .r0, .t0, some .x) ∧ wellFormed (.fadd .r0 .t0 .x) = true ∧
      faulty.regs.get .x = .value 23) ∧
    (microFields (.finv .r1 .z2) = some (.inv, .r1, .z2, none) ∧ wellFormed (.finv .r1 .z2) = true ∧
      Reads faulty 23 0 .z2 0) :=
  ⟨rfl, rfl, ⟨rfl, rfl, rfl, by decide, by decide⟩, ⟨rfl, rfl, rfl, by decide⟩, ⟨rfl, rfl, ⟨by decide, rfl⟩, rfl⟩,
    ⟨rfl, rfl, rfl⟩, rfl, rfl, by decide, rfl⟩

theorem witness_IllegalWordsFault :
    ¬ legalWord 0x1A00#16 ∧ ({ slot7 with injected := some 0x1A00#16 } : State).inputs = [] ∧
    romLength slot7.unit ≠ 0 ∧ romWord .dbl 20 = some 0x4080#16 := by
  refine ⟨?_, rfl, by decide, rfl⟩
  unfold legalWord
  decide

/-- Slot 21 of `ROM.DBL` (V3) and slot 6 of `AFF1` (V6). -/
def lastDbl : State := inside .dbl 20 1#8 { file 14 8 14 12 7 2 7 with r3 := .value 10 }
def lastAff : State := inside .aff1 5 4#8 { file 8 5 12 6 3 2 7 with xa := .value 9, r0 := .value 3, r1 := .value 8 }

theorem witness_LastSlotMakesTheTransition :
    (microFields (.fcpy .x .r3) = some (.copy, .x, .r3, none) ∧ wellFormed (.fcpy .x .r3) = true ∧
      lastDbl.p = .value 23 ∧ lastDbl.mc = .value 0 ∧ Reads lastDbl 23 0 .r3 10 ∧
      fieldResult lastDbl.params 23 0 .copy 10 0 = some 10 ∧ lastDbl.upc + 1 = romLength lastDbl.unit) ∧
    (microFields (.fmul .ya .y .r1) = some (.mul, .ya, .y, some .r1) ∧ wellFormed (.fmul .ya .y .r1) = true ∧
      Reads lastAff 23 0 .y 5 ∧ Reads lastAff 23 0 .r1 8 ∧ fieldResult lastAff.params 23 0 .mul 5 8 = some 17 ∧
      lastAff.upc + 1 = romLength lastAff.unit) :=
  ⟨⟨rfl, rfl, rfl, rfl, ⟨by decide, rfl⟩, rfl, rfl⟩, rfl, rfl, ⟨by decide, rfl⟩, ⟨by decide, rfl⟩, rfl, rfl⟩

/-- The first and the last row of both primitives. -/
theorem witness_PrimitiveRowsComplete :
    (romRow .dbl 0 = some .romDbl1 ∧ slotFields .dbl 0 = some (.mul, .r0, .x, some .x) ∧
      fieldResult e23 23 0 .mul 2 2 = some 4 ∧ Reads slot7 23 0 .x 2) ∧
    (romRow .add 20 = some .romAdd21 ∧ slotFields .add 20 = some (.copy, .x, .r3, none) ∧
      fieldResult e23 23 0 .copy 10 0 = some 10 ∧ Reads lastDbl 23 0 .r3 10) ∧
    slot7.p = .value 23 ∧ slot7.mc = .value 0 :=
  ⟨⟨rfl, rfl, rfl, by decide, rfl⟩, ⟨rfl, rfl, rfl, by decide, rfl⟩, rfl, rfl⟩

/-- A row of each of the three ROMs, the two inversions among them. -/
theorem witness_InitAndConverterRowsComplete :
    (romRow .init 2 = some .romInit3 ∧ slotFields .init 2 = some (.copy, .z, .one, none) ∧ Reads slot7 23 0 .one 1) ∧
    (romRow .aff1 4 = some .romAffOne5 ∧ slotFields .aff1 4 = some (.inv, .r1, .r0, none) ∧ Reads lastAff 23 0 .r0 3 ∧
      fieldResult e23 23 0 .inv 3 0 = some 8) ∧
    (romRow .aff0 3 = some .romAffZero4 ∧ slotFields .aff0 3 = some (.mul, .ya, .y, some .r1) ∧
      Reads lastAff 23 0 .y 5 ∧ Reads lastAff 23 0 .r1 8) :=
  ⟨⟨rfl, rfl, slot7_reads.2.2⟩, ⟨rfl, rfl, ⟨by decide, rfl⟩, by decide⟩, rfl, rfl, ⟨by decide, rfl⟩, by decide, rfl⟩

/-! ## Witnesses: commands and the sequencer's steps -/

theorem witness_UnitCommandsAreAccepted : Configured (core (file 2 7 1 1 1 2 7)) 23 0 ∧
    flag .busy (core (file 2 7 1 1 1 2 7)) = false := ⟨configured_core _, rfl⟩

/-- Eight symbols: `LEN = NDIG`. -/
def full : State := scalar [0x31, 0x30, 0x31, 0x30, 0x31, 0x30, 0x31, 0x30]

theorem witness_DriverCommandsAreAccepted : Configured full 23 0 ∧ full.len.toNat ≤ full.params.ndig ∧
    flag .busy full = false := ⟨configured_scalar _, by decide, rfl⟩

theorem witness_AcceptChecksComeInOrder :
    Instr.cmdKp ∈ [Instr.cmdDbl, .cmdAdd, .cmdSmul, .cmdAff, .cmdKp] ∧
    (flag .busy (State.resetWith e23) = false ∧ (State.resetWith e23).p = .unwritten) ∧
    (let s : State := { State.resetWith e23 with p := .value 23 };
      flag .busy s = false ∧ s.p = .value 23 ∧ s.mc = .unwritten) ∧
    (let s : State := { full with p := .value 3 };
      flag .busy s = false ∧ s.p = .value 3 ∧ s.mc = .value 0 ∧ ¬ (Nat.Prime 3 ∧ 3 < 3 ∧ 3 < 2 ^ s.params.w)) ∧
    (let s : State := { full with len := 9#16 };
      flag .busy s = false ∧ s.p = .value 23 ∧ s.mc = .value 0 ∧ (Nat.Prime 23 ∧ 3 < 23 ∧ 23 < 2 ^ s.params.w) ∧
      s.params.ndig < s.len.toNat) :=
  ⟨by decide, ⟨rfl, rfl⟩, ⟨rfl, rfl, rfl⟩, ⟨rfl, rfl, rfl, by omega⟩, rfl, rfl, rfl,
    ⟨by norm_num, by decide, by decide⟩, by decide⟩

theorem witness_CommandsWhileBusyAreRefused : flag .busy slot7 = true ∧
    Instr.cmdIllegal 0x06#8 ∈ [Instr.cmdDbl, .cmdAdd, .cmdSmul, .cmdAff, .cmdKp, .cmdIllegal 0x06#8] := by decide

theorem witness_IllegalCommandEndsAtOnce : flag .busy (State.resetWith e23) = false ∧
    (State.resetWith e23).status.getLsbD 7 = false := by decide

/-- A core at the fetch step with `DPOS = d`. -/
def atFetch (d : Nat) (symbols : List Nat) : State :=
  { scalar symbols with unit := .fetch, status := 1#8, cmdr := 5#8, dpos := BitVec.ofNat 16 d }

/-- No digit left; the first and the last digit of a full buffer; a malformed symbol; an unwritten one. -/
theorem witness_FetchStepFollowsTheDigit :
    (let s := atFetch 1 [0x31];
      s.unit = .fetch ∧ s.inputs = [] ∧ s.len.toNat ≤ s.dpos.toNat) ∧
    (let s := atFetch 1 [0x31, 0x31];
      s.dpos.toNat < s.len.toNat ∧ s.dpos.toNat < s.params.ndig ∧ Memory.read s.dig s.dpos.toNat = some 0x31#8) ∧
    (let s := atFetch 7 [0x31, 0x30, 0x31, 0x30, 0x31, 0x30, 0x31, 0x30];
      s.dpos.toNat < s.len.toNat ∧ s.dpos.toNat < s.params.ndig ∧ Memory.read s.dig s.dpos.toNat = some 0x30#8) ∧
    (let s := atFetch 1 [0x31, 0x32];
      s.dpos.toNat < s.len.toNat ∧ s.dpos.toNat < s.params.ndig ∧ Memory.read s.dig s.dpos.toNat = some 0x32#8) ∧
    (let s : State := { atFetch 1 [0x31, 0x32] with dig := [] };
      s.dpos.toNat < s.len.toNat ∧ s.dpos.toNat < s.params.ndig ∧ Memory.read s.dig s.dpos.toNat = none) := by
  decide

/-- A core at the `FIN` step. -/
def atFin (symbols : List Nat) : State := { atFetch 1 symbols with unit := .fin }

/-- The empty string, one symbol and a full buffer; both continuations. -/
theorem witness_FinStepLatchesAndContinues :
    (let s := atFin [];
      s.unit = .fin ∧ s.inputs = [] ∧ s.len = 0#16 ∧ s.cmdr = 0x05#8 ∧ flag .errDigit s = false) ∧
    (let s := atFin [0x30];
      1 ≤ s.len.toNat ∧ s.len.toNat ≤ s.params.ndig ∧ Memory.read s.dig (s.len.toNat - 1) = some 0x30#8) ∧
    (let s := atFin [0x31, 0x30, 0x31, 0x30, 0x31, 0x30, 0x31, 0x31];
      s.len.toNat ≤ s.params.ndig ∧ Memory.read s.dig (s.len.toNat - 1) = some 0x31#8) ∧
    (let s : State := { atFin [0x30] with status := 0x05#8 };
      s.cmdr = 0x05#8 ∧ flag .errDigit s = true ∧ s.params.policy = .abort ∧
      (partialPolicy s).params.policy = .normalizePartial) := by decide

theorem witness_SelectStepReadsLastdAlone :
    (let s : State := { atFin [0x31] with unit := .affsel, lastd := 0x31#8 };
      s.unit = .affsel ∧ s.inputs = [] ∧ s.lastd = 0x31#8) ∧
    (let s : State := { atFin [0x31] with unit := .affsel, lastd := 0x30#8 };
      s.unit = .affsel ∧ s.inputs = [] ∧ s.lastd = 0x30#8) ∧
    (let s : State := { atFin [0x31] with unit := .affsel, lastd := 0x32#8 };
      s.unit = .affsel ∧ s.inputs = [] ∧ s.lastd ≠ 0x31#8 ∧ s.lastd ≠ 0x30#8) := by decide

theorem witness_StepRunsTheDecodedInstruction :
    (nextItem slot7 = some (.slot .dbl 6 0x1227#16, slot7) ∧ decode (.slot .dbl 6 0x1227#16) = .ok .romDbl7) ∧
    (slot7.injected = none ∧ romRow slot7.unit slot7.upc = some .romDbl7 ∧ slot7.inputs = [] ∧
      ({ slot7 with inputs := [.tick] } : State).inputs = [.tick] ∧ flag .done slot7 = false ∧
      Input.reset ∉ ([] : List Input)) ∧
    (let s : State := { inside .dbl 0 1#8 RegFile.unwritten with inputs := [.tick, .waitDone] ++ .reset :: [.tick] };
      nextItem s = some (.slot .dbl 0 0x1500#16, { s with inputs := [.waitDone, .reset, .tick] }) ∧
      decode (.slot .dbl 0 0x1500#16) = .ok .romDbl1 ∧
      faultsWith (exec .romDbl1 { s with inputs := [.waitDone, .reset, .tick] }) (.unwrittenRead (.reg .x)) = true ∧
      Input.reset ∉ [Input.tick, .waitDone]) ∧
    (let s := atFetch 1 [0x31, 0x30];
      s.inputs = [] ∧ s.unit = .fetch ∧ s.dpos.toNat < s.len.toNat ∧ s.dpos.toNat < s.params.ndig ∧
      Memory.read s.dig s.dpos.toNat = some 0x30#8) ∧
    (flag .busy full = false ∧ 0 < 256 ∧ 255 < 256) ∧ (full.unit = .idle ∧ full.inputs = []) := by decide

/-! ## Witnesses: the host -/

/-- The first and the last index of each range of the map, and of each range it leaves out; no index is in two. -/
theorem witness_HostReadsFollowTheMap :
    ({ full with inputs := [.read 0x0010] } : State).inputs = [.read 0x0010] ∧ flag .busy full = false ∧
    (0x0000, some 0) ∈ hostTable full ∧ (0x0010, some 2) ∈ hostTable full ∧ (0x001D, none) ∈ hostTable full ∧
    (0x0021, some 0) ∈ hostTable full ∧ (0x1000 + 0 = 0x1000 ∧ 0 < full.params.ndig) ∧
    (0x1000 + 7 = 0x1007 ∧ 7 < full.params.ndig) ∧
    (∀ ha ∈ [0x0005, 0x000F, 0x0015, 0x0019, 0x001E, 0x001F, 0x0022, 0x0FFF, 0x1008], unmapped full.params ha) ∧
    (∀ q ∈ hostTable full, ¬ unmapped full.params q.1 ∧ q.1 < 0x1000) ∧
    ¬ unmapped full.params 0x1000 ∧ ¬ unmapped full.params 0x1007 := by
  unfold unmapped
  exact ⟨rfl, by decide, by decide, by decide, by decide, by decide, by decide, by decide, by decide, by decide,
    by decide, by decide⟩

theorem witness_HostWritesFollowTheMap :
    ({ full with inputs := [.write 0x0002 65535] } : State).inputs = [.write 0x0002 65535] ∧ flag .busy full = false ∧
    65535 < 65536 ∧ 255 < 2 ^ full.params.w ∧
    (0x0010, Reg.x) ∈ [(0x0010, Reg.x), (0x0011, .y), (0x0012, .z), (0x0013, .z2), (0x0014, .z3), (0x001A, .ax),
      (0x001B, .ay)] ∧ 0x1000 + 7 = 0x1007 ∧ 7 < full.params.ndig ∧ 255 < 256 := by decide

/-- A read-only register, an index outside the map, and each width exceeded by one. -/
theorem witness_ForbiddenWritesAreRefused :
    flag .busy full = false ∧ 0x001D ∈ [0x0001, 0x0003, 0x001C, 0x001D] ∧ unmapped full.params 0x1008 ∧
    (0x0004 ∈ [0x0000, 0x0004] ∧ 256 ≤ 256) ∧ 65536 ≤ 65536 ∧ 2 ^ full.params.w ≤ 256 ∧
    (0x1000 ≤ 0x1007 ∧ 0x1007 < 0x1000 + full.params.ndig ∧ 256 ≤ 256) := by
  unfold unmapped
  decide

theorem witness_BusyCoreAnswersStatusOnly :
    flag .busy slot7 = true ∧ ({ slot7 with inputs := [.read 0x0001] } : State).inputs = [.read 0x0001] ∧
    ({ slot7 with inputs := [.read 0x0010] } : State).inputs = [.read 0x0010] ∧ 0x0010 ≠ 0x0001 ∧
    ({ slot7 with inputs := [.write 0x0002 3] } : State).inputs = [.write 0x0002 3] := by decide

theorem witness_DigitBufferReadsWhatWasWritten :
    Memory.wf full.dig = true ∧ Memory.wf (Memory.write [] 7 0x30#8) = true ∧ Memory.wf [] = true := by decide

theorem witness_ResetGivesTheTable : ({ slot7 with inputs := [.reset, .tick] } : State).inputs = [.reset, .tick] := rfl

/-- A slot whose source is unwritten faults, and a reset that follows is the exit (R160, R170). -/
theorem witness_ResetIsTheExitFromAModelFault :
    Input.reset ∉ [Input.tick, .read 0] ∧
    step { inside .dbl 0 1#8 RegFile.unwritten with inputs := [.tick, .read 0] } =
      .fault (.unwrittenRead (.reg .x)) := ⟨by decide, fault_of_check (by decide)⟩

theorem witness_ResetMeetsTheInvariant : e23.valid = true ∧ Params.valid { e23 with ndig := 65535 } = true := by decide

/-! ## Witnesses: the invariant and the whole-machine rules -/

/-- `AFF1` on 3G before slot 3 (V6): the step writes `XA`. -/
def beforeXa : State := inside .aff1 2 4#8 { file 8 5 12 6 3 2 7 with r0 := .value 6, r1 := .value 4 }

theorem beforeXa_ok : Invariant { beforeXa with dpos := 1#16 } ∧
    ∃ t, step { beforeXa with dpos := 1#16 } = .next t ∧ t.regs.xa = .value 9 := by
  refine ⟨invariant_of_runCheck (by decide), ?_⟩
  obtain ⟨t, h, hx⟩ := next_of_goesTo (r := step { beforeXa with dpos := 1#16 })
    (f := fun t => t.regs.xa == .value 9) (by decide)
  exact ⟨t, h, by simpa using hx⟩

theorem witness_StepKeepsTheInvariant : ∃ s t, Invariant s ∧ step s = .next t :=
  ⟨_, _, beforeXa_ok.1, beforeXa_ok.2.choose_spec.1⟩

theorem witness_SequencerOnlyReadsItsInputs : ∃ s t, step s = .next t ∧ s.inputs = [] :=
  ⟨_, _, beforeXa_ok.2.choose_spec.1, rfl⟩

/-- Both output registers: slot 3 and slot 6. -/
theorem witness_OutputIsWrittenByTheConverterOnly :
    (∃ s t, Invariant s ∧ step s = .next t ∧ ¬ ResetTaken s t ∧ t.regs.xa ≠ s.regs.xa) ∧
    ∃ s t, Invariant s ∧ step s = .next t ∧ ¬ ResetTaken s t ∧ t.regs.ya ≠ s.regs.ya := by
  constructor
  · obtain ⟨hi, t, h, hx⟩ := beforeXa_ok
    exact ⟨_, t, hi, h, fun hr => absurd hr.1 (by decide), by rw [hx]; decide⟩
  · obtain ⟨t, h, hx⟩ := next_of_goesTo (r := step { lastAff with dpos := 1#16 })
      (f := fun t => t.regs.ya == .value 17) (by decide)
    exact ⟨_, t, invariant_of_runCheck (by decide), h, fun hr => absurd hr.1 (by decide), by rw [beq_iff_eq.mp hx]; decide⟩

/-- The end of `ROM.ADD` under `SMUL` on a string of two symbols: `DPOS` goes from 1 to 2. -/
def lastAdd : State :=
  { scalar [0x31, 0x31] with
    unit := .add, upc := 20, status := 1#8, cmdr := 3#8, cur := 0x31#8, dpos := 1#16
    regs := { file 20 5 12 6 3 2 7 with
      r0 := .value 15, r1 := .value 10, r2 := .value 2, r3 := .value 8, t0 := .value 18 } }

theorem witness_DigitPointerMovesByRule :
    ∃ s t, Invariant s ∧ step s = .next t ∧ ¬ ResetTaken s t ∧ t.dpos = 2#16 := by
  obtain ⟨t, h, hx⟩ := next_of_goesTo (r := step lastAdd) (f := fun t => t.dpos == 2#16) (by decide)
  exact ⟨_, t, invariant_of_runCheck (by decide), h, fun hr => absurd hr.1 (by decide), by simpa using hx⟩

/-- A malformed symbol sets `ERR_DIGIT`, the select step sets `ERR_NORM`, and a flag that is set stays. -/
theorem witness_ErrorFlagsStayUntilTheNextCommand :
    (∃ s t, step s = .next t ∧ ¬ ResetTaken s t ∧ (∀ v, s.inputs.head? ≠ some (.write 0x0000 v)) ∧
      flag .errDigit s = false ∧ flag .errDigit t = true) ∧
    (∃ s t, step s = .next t ∧ ¬ ResetTaken s t ∧ (∀ v, s.inputs.head? ≠ some (.write 0x0000 v)) ∧
      flag .errNorm s = false ∧ flag .errNorm t = true) ∧
    ∃ s t, step s = .next t ∧ ¬ ResetTaken s t ∧ (∀ v, s.inputs.head? ≠ some (.write 0x0000 v)) ∧
      flag .errCmd s = true := by
  refine ⟨?_, ?_, ?_⟩
  · obtain ⟨t, h, hx⟩ := next_of_goesTo (r := step (atFetch 1 [0x31, 0x78])) (f := flag .errDigit) (by decide)
    exact ⟨_, t, h, fun hr => absurd hr.1 (by decide), fun v => by simp [atFetch, scalar, core, State.resetWith], by decide, hx⟩
  · obtain ⟨t, h, hx⟩ := next_of_goesTo (r := step { atFin [0x78] with unit := .affsel, lastd := 0x78#8 })
      (f := flag .errNorm) (by decide)
    exact ⟨_, t, h, fun hr => absurd hr.1 (by decide), fun v => by simp [atFin, atFetch, scalar, core, State.resetWith], by decide, hx⟩
  · obtain ⟨t, h, -⟩ := next_of_goesTo (r := step { full with status := 0x12#8, inputs := [.read 1] })
      (f := fun _ => true) (by decide)
    exact ⟨_, t, h, fun hr => absurd hr.1 (by decide), fun v => by simp, by decide⟩

/-- A fault of each class that a step can end in: unwritten, not canonical, `FINV` of 0, the digit buffer, the accept
step. -/
theorem witness_FaultsAreThoseTheRulesList :
    (∃ s, Invariant s ∧ step s = .fault (.unwrittenRead (.reg .x))) ∧
    (∃ s, Invariant s ∧ step s = .fault (.nonCanonical .x)) ∧
    (∃ s, Invariant s ∧ step s = .fault .finvZero) ∧
    (∃ s, Invariant s ∧ step s = .fault (.unwrittenRead (.dig 1))) ∧
    (∃ s, Invariant s ∧ step s = .fault (.unwrittenRead (.dig 7))) ∧
    (∃ s, Invariant s ∧ step s = .fault (.unwrittenRead .modulus)) ∧
    (∃ s, Invariant s ∧ step s = .fault (.unwrittenRead .constant)) ∧
    (∃ s, Invariant s ∧ step s = .fault (.badModulus 3)) ∧
    ∃ s, Invariant s ∧ step s = .fault (.lenOutOfRange 9#16) := by
  have command : ∀ (s : State) (c : Nat), quietCheck s = true → Invariant (issue c s) := fun s c h =>
    Invariant_of_eq (quiet_of_check h).inv rfl
  refine ⟨⟨{ inside .dbl 0 1#8 RegFile.unwritten with dpos := 1#16 }, ?_, ?_⟩,
    ⟨{ inside .dbl 0 1#8 (file 23 7 1 1 1 2 7) with dpos := 1#16 }, ?_, ?_⟩,
    ⟨{ inside .aff0 0 4#8 (file 2 7 0 0 0 2 7) with dpos := 1#16 }, ?_, ?_⟩,
    ⟨{ atFetch 1 [0x31, 0x31] with dig := [] }, ?_, ?_⟩, ⟨{ atFin [1, 1, 1, 1, 1, 1, 1, 1] with dig := [] }, ?_, ?_⟩,
    ⟨issue 1 (State.resetWith e23), command _ _ (by decide), ?_⟩,
    ⟨issue 5 { State.resetWith e23 with p := .value 23 }, command _ _ (by decide), ?_⟩,
    ⟨issue 4 { full with p := .value 3 }, command _ _ (by decide), ?_⟩,
    ⟨issue 3 { full with len := 9#16 }, command _ _ (by decide), ?_⟩⟩
  all_goals first | exact fault_of_check (by decide) | exact invariant_of_runCheck (by decide)

theorem witness_DigitsNeverFault : Invariant lastAdd ∧ atDigit lastAdd = true :=
  ⟨invariant_of_runCheck (by decide), by decide⟩

/-- Two runs of three micro-operations on different values. -/
theorem witness_ControlIgnoresFieldValues :
    ∃ k s s' t t', SameControl s s' ∧ s.inputs = [] ∧ run k s = .next t ∧ run k s' = .next t' ∧ s.regs ≠ s'.regs := by
  obtain ⟨t, h, -⟩ := next_of_goesTo (r := run 3 (inside .dbl 0 1#8 (file 2 7 1 1 1 2 7))) (f := fun _ => true) (by decide)
  obtain ⟨t', h', -⟩ := next_of_goesTo (r := run 3 (inside .dbl 0 1#8 (file 5 9 0 0 0 2 7))) (f := fun _ => true) (by decide)
  exact ⟨3, inside .dbl 0 1#8 (file 2 7 1 1 1 2 7), inside .dbl 0 1#8 (file 5 9 0 0 0 2 7), t, t', rfl, rfl, h, h', by decide⟩

/-- Two idle cores with different scratch registers, and a command `DBL` that runs, and one that faults. -/
theorem witness_ScratchRegistersCarryNothing :
    (∃ k s s' t, usesScratch s.unit = false ∧ s.injected = none ∧ SameButScratch s s' ∧ s.regs ≠ s'.regs ∧
      run k s = .next t) ∧
    ∃ k s s' f, usesScratch s.unit = false ∧ s.injected = none ∧ SameButScratch s s' ∧ s.regs ≠ s'.regs ∧
      run k s = .fault f := by
  constructor
  · obtain ⟨t, h, -⟩ := next_of_goesTo (r := run 4 (issue 1 (core (file 2 7 1 1 1 2 7)))) (f := fun _ => true) (by decide)
    exact ⟨4, _, issue 1 (core { file 2 7 1 1 1 2 7 with r0 := .value 3 }), t, rfl, rfl,
      ⟨rfl, fun r hr => by cases r <;> first | rfl | cases hr⟩, by decide, h⟩
  · exact ⟨1, issue 1 (State.resetWith e23), issue 1 { State.resetWith e23 with regs := { RegFile.unwritten with t0 := .value 3 } },
      .unwrittenRead .modulus, rfl, rfl, ⟨rfl, fun r hr => by cases r <;> first | rfl | cases hr⟩, by decide,
      fault_of_check (by decide)⟩

/-! ## Witnesses: the commands as functions -/

/-- The idle core of V3: the lifted base point. -/
def lifted23 : State := core (file 2 7 1 1 1 2 7)

/-- A Point of setting E23 as field elements. -/
def point23 (x y z z2 z3 : Nat) : Coordinates (ZMod 23) := { x := x, y := y, z := z, z2 := z2, z3 := z3 }

theorem pointMeans23 {x y z z2 z3 ax ay : Nat} (hx : x < 23) (hy : y < 23) (hz : z < 23) (hz2 : z2 < 23)
    (hz3 : z3 < 23) : PointMeans (core (file x y z z2 z3 ax ay)) 23 0 (point23 x y z z2 z3) :=
  ⟨means23 rfl rfl hx, means23 rfl rfl hy, means23 rfl rfl hz, means23 rfl rfl hz2, means23 rfl rfl hz3⟩

theorem addend23 {s : State} (hc : s.params.provider = .reference) (hx : s.regs.ax = .value 2) (hy : s.regs.ay = .value 7) :
    Means s 23 0 .ax ((2 : Nat) : ZMod 23) ∧ Means s 23 0 .ay ((7 : Nat) : ZMod 23) :=
  ⟨means23 hc hx (by decide), means23 hc hy (by decide)⟩

/-- The entry of V3, and that of V8 with `Y = 0`. -/
theorem witness_DoublingCommandComputesItsClosedForm :
    (Quiet lifted23 ∧ Configured lifted23 23 0 ∧ PointMeans lifted23 23 0 (point23 2 7 1 1 1)) ∧
    (let s := core (file 5 0 3 9 4 2 7);
      Quiet s ∧ Configured s 23 0 ∧ PointMeans s 23 0 (point23 5 0 3 9 4)) :=
  ⟨⟨quiet_of_check (by decide), configured_core _, pointMeans23 (by decide) (by decide) (by decide) (by decide) (by decide)⟩,
    quiet_of_check (by decide), configured_core _,
    pointMeans23 (by decide) (by decide) (by decide) (by decide) (by decide)⟩

/-- The entry of V5. -/
def two23 : State := core (file 10 8 14 12 7 2 7)

theorem two23_ok : Quiet two23 ∧ Configured two23 23 0 ∧ PointMeans two23 23 0 (point23 10 8 14 12 7) :=
  ⟨quiet_of_check (by decide), configured_core _,
    pointMeans23 (by decide) (by decide) (by decide) (by decide) (by decide)⟩

theorem witness_AdditionCommandComputesItsClosedForm :
    (Quiet two23 ∧ Configured two23 23 0 ∧ PointMeans two23 23 0 (point23 10 8 14 12 7)) ∧
    Means two23 23 0 .ax ((2 : Nat) : ZMod 23) ∧ Means two23 23 0 .ay ((7 : Nat) : ZMod 23) :=
  ⟨two23_ok, addend23 rfl rfl rfl⟩

theorem prime23 : Fact (Nat.Prime 23) := ⟨by norm_num⟩

theorem witness_GenericDoublingIsTheAffineLaw :
    Fact (Nat.Prime 23) ∧ (Quiet two23 ∧ Configured two23 23 0 ∧ PointMeans two23 23 0 (point23 10 8 14 12 7)) ∧
    (point23 10 8 14 12 7).z2 = (point23 10 8 14 12 7).z ^ 2 ∧ (point23 10 8 14 12 7).z ≠ 0 ∧
    (point23 10 8 14 12 7).y ≠ 0 :=
  ⟨prime23, two23_ok, by decide, by decide, by decide⟩

/-- 2G and G differ in `x`: `10 / 14^2 = 20` (V3). -/
theorem apart23 : (point23 10 8 14 12 7).z ^ 2 ≠ 0 ∧
    (point23 10 8 14 12 7).x ≠ ((2 : Nat) : ZMod 23) * (point23 10 8 14 12 7).z ^ 2 := by decide

theorem witness_GenericAdditionIsTheAffineLaw : ∃ _ : Fact (Nat.Prime 23),
    (Quiet two23 ∧ Configured two23 23 0 ∧ PointMeans two23 23 0 (point23 10 8 14 12 7)) ∧
    Means two23 23 0 .ax ((2 : Nat) : ZMod 23) ∧ Means two23 23 0 .ay ((7 : Nat) : ZMod 23) ∧
    (point23 10 8 14 12 7).z2 = (point23 10 8 14 12 7).z ^ 2 ∧
    (point23 10 8 14 12 7).z3 = (point23 10 8 14 12 7).z ^ 3 ∧ (point23 10 8 14 12 7).z ≠ 0 ∧
    (point23 10 8 14 12 7).x / (point23 10 8 14 12 7).z ^ 2 ≠ ((2 : Nat) : ZMod 23) := by
  have := prime23
  refine ⟨prime23, two23_ok, (addend23 rfl rfl rfl).1, (addend23 rfl rfl rfl).2, by decide, by decide, by decide, ?_⟩
  exact fun h => apart23.2 ((div_eq_iff apart23.1).mp h)

/-- 2G under each value of `LASTD` (V7). -/
theorem witness_ConverterCommandWritesTheAffinePair :
    (∀ l : Symbol, Quiet { two23 with lastd := l } ∧ Configured { two23 with lastd := l } 23 0 ∧
      PointMeans { two23 with lastd := l } 23 0 (point23 10 8 14 12 7)) ∧
    ((14 : Nat) : ZMod 23) ≠ 0 ∧ ((12 : Nat) : ZMod 23) ≠ 0 ∧ ((7 : Nat) : ZMod 23) ≠ 0 ∧
    ({ two23 with lastd := 0x31#8 } : State).lastd = 0x31#8 ∧ ({ two23 with lastd := 0x30#8 } : State).lastd = 0x30#8 ∧
    (0x32#8 ≠ 0x31#8 ∧ 0x32#8 ≠ 0x30#8) :=
  ⟨fun l => ⟨⟨Invariant_of_eq two23_ok.1.inv rfl, rfl, rfl⟩, ⟨rfl, rfl, good23⟩,
    ⟨means23 rfl rfl (by decide), means23 rfl rfl (by decide), means23 rfl rfl (by decide), means23 rfl rfl (by decide),
      means23 rfl rfl (by decide)⟩⟩, by decide, by decide, by decide, rfl, rfl, by decide⟩

theorem witness_ConverterBranchesAgree :
    (Quiet two23 ∧ Configured two23 23 0 ∧ PointMeans two23 23 0 (point23 10 8 14 12 7)) ∧
    (point23 10 8 14 12 7).z2 = (point23 10 8 14 12 7).z * (point23 10 8 14 12 7).z ∧
    (point23 10 8 14 12 7).z3 = (point23 10 8 14 12 7).z * (point23 10 8 14 12 7).z2 ∧
    (point23 10 8 14 12 7).z ≠ 0 :=
  ⟨two23_ok, by decide, by decide, by decide⟩

/-- The Point of V9 with `Z = 0`, `Z2 = 0`, and a stale one with `Z3 = 0` alone. -/
theorem witness_ConverterOfZeroFaults :
    (let s : State := { core (file 16 8 0 0 0 2 7) with lastd := 0x31#8 };
      Quiet s ∧ Configured s 23 0 ∧ s.lastd = 0x31#8 ∧ s.regs.z = .value 0) ∧
    (let s : State := { core (file 16 8 0 0 0 2 7) with lastd := 0x30#8 };
      Quiet s ∧ Configured s 23 0 ∧ s.lastd = 0x30#8 ∧ s.regs.z2 = .value 0) ∧
    (let s : State := { core (file 16 8 1 1 0 2 7) with lastd := 0x30#8 };
      Quiet s ∧ Configured s 23 0 ∧ s.lastd = 0x30#8 ∧ s.regs.z2 = .value 1 ∧ 1 ≠ 0 ∧ 1 < 23 ∧
      s.regs.x = .value 16 ∧ 16 < 23 ∧ s.regs.z3 = .value 0) :=
  ⟨⟨quiet_of_check (by decide), ⟨rfl, rfl, good23⟩, rfl, rfl⟩, ⟨quiet_of_check (by decide), ⟨rfl, rfl, good23⟩, rfl, rfl⟩,
    quiet_of_check (by decide), ⟨rfl, rfl, good23⟩, rfl, rfl, by decide, by decide, rfl, by decide, rfl⟩

/-- `101` and the string of V14, whose third symbol is malformed; the empty string, and the one of a single `x`. -/
theorem processes23 :
    Processes (scalar [0x31, 0x30, 0x31]) 2 0x31#8 ∧ Processes (scalar [0x31, 0x30, 0x31, 0x78, 0x30, 0x31]) 2 0x31#8 ∧
    Processes (scalar []) 0 0x00#8 ∧ Processes (scalar [0x78]) 0 0x78#8 ∧ Processes (scalar [0x31, 0x30, 0x30]) 2 0x30#8 ∧
    Processes (scalar [0x31, 0x30, 0x31, 0x78, 0x30]) 2 0x30#8 ∧ Processes (scalar [0x31, 0x30, 0x31, 0x78]) 2 0x78#8 := by
  refine ⟨⟨by decide, ?_, .inl rfl, by decide⟩, ⟨by decide, ?_, .inr ⟨by decide, 0x78#8, by decide⟩, by decide⟩,
    ⟨by decide, by omega, .inl rfl, by decide⟩, ⟨by decide, by omega, .inl rfl, by decide⟩,
    ⟨by decide, ?_, .inl rfl, by decide⟩, ⟨by decide, ?_, .inr ⟨by decide, 0x78#8, by decide⟩, by decide⟩,
    ⟨by decide, ?_, .inr ⟨by decide, 0x78#8, by decide⟩, by decide⟩⟩
  all_goals
    intro i h1 h2
    interval_cases i <;> decide

theorem scalar_ok (l : List Nat) (h : quietCheck (scalar l) = true) :
    Quiet (scalar l) ∧ Configured (scalar l) 23 0 ∧ Means (scalar l) 23 0 .ax ((2 : Nat) : ZMod 23) ∧
    Means (scalar l) 23 0 .ay ((7 : Nat) : ZMod 23) :=
  ⟨quiet_of_check h, configured_scalar l, addend23 rfl rfl rfl⟩

theorem witness_ScalarCommandDrivesTheAccumulator :
    (∀ l ∈ [[], [0x78], [0x31, 0x30, 0x31], [0x31, 0x30, 0x31, 0x78, 0x30, 0x31]],
      Quiet (scalar l) ∧ Configured (scalar l) 23 0 ∧ Means (scalar l) 23 0 .ax ((2 : Nat) : ZMod 23) ∧
      Means (scalar l) 23 0 .ay ((7 : Nat) : ZMod 23)) ∧
    Processes (scalar []) 0 0x00#8 ∧ Processes (scalar [0x78]) 0 0x78#8 ∧
    Processes (scalar [0x31, 0x30, 0x31]) 2 0x31#8 ∧ Processes (scalar [0x31, 0x30, 0x31, 0x78, 0x30, 0x31]) 2 0x31#8 :=
  ⟨fun l hl => scalar_ok l (by revert l; decide), processes23.2.2.1, processes23.2.2.2.1, processes23.1, processes23.2.1⟩

theorem quiet_partial {s : State} (hc : Configured s 23 0) :
    quietCheck (partialPolicy s) = true → Quiet (partialPolicy s) ∧ Configured (partialPolicy s) 23 0 :=
  fun hq => ⟨quiet_of_check hq, ⟨hc.1, hc.2, hc.3⟩⟩

/-- `101`, `100`, `101x01`, `101x0`, `101x` and `x`: the four outcomes under both policies (V13, V14). -/
theorem witness_ChainCommandFollowsItsTable :
    (∀ l ∈ [[], [0x78], [0x31, 0x30, 0x31], [0x31, 0x30, 0x30], [0x31, 0x30, 0x31, 0x78, 0x30, 0x31],
        [0x31, 0x30, 0x31, 0x78, 0x30], [0x31, 0x30, 0x31, 0x78]],
      Quiet (scalar l) ∧ Configured (scalar l) 23 0 ∧ Means (scalar l) 23 0 .ax ((2 : Nat) : ZMod 23) ∧
      Means (scalar l) 23 0 .ay ((7 : Nat) : ZMod 23) ∧ Quiet (partialPolicy (scalar l)) ∧
      Configured (partialPolicy (scalar l)) 23 0) ∧
    (let s := scalar [0x31, 0x30, 0x31, 0x78, 0x30, 0x31];
      Processes s 2 0x31#8 ∧ 2 + 1 < s.len.toNat ∧ s.params.policy = .abort ∧
      Processes (partialPolicy s) 2 0x31#8 ∧ (partialPolicy s).params.policy ≠ .abort) ∧
    (let s := scalar [0x31, 0x30, 0x31];
      Processes s 2 0x31#8 ∧ ¬ 2 + 1 < s.len.toNat ∧
      (driven s.dig ((2 : Nat) : ZMod 23) ((7 : Nat) : ZMod 23) 2).z ≠ 0) ∧
    (let s := scalar [0x31, 0x30, 0x30];
      Processes s 2 0x30#8 ∧ ¬ 2 + 1 < s.len.toNat ∧
      (driven s.dig ((2 : Nat) : ZMod 23) ((7 : Nat) : ZMod 23) 2).z ≠ 0) ∧
    Processes (scalar [0x31, 0x30, 0x31, 0x78, 0x30]) 2 0x30#8 ∧ Processes (scalar [0x31, 0x30, 0x31, 0x78]) 2 0x78#8 ∧
    Processes (scalar [0x78]) 0 0x78#8 ∧ Processes (scalar []) 0 0x00#8 := by
  obtain ⟨h1, h2, h3, h4, h5, h6, h7⟩ := processes23
  have all : ∀ l ∈ [[], [0x78], [0x31, 0x30, 0x31], [0x31, 0x30, 0x30], [0x31, 0x30, 0x31, 0x78, 0x30, 0x31],
      [0x31, 0x30, 0x31, 0x78, 0x30], [0x31, 0x30, 0x31, 0x78]],
      quietCheck (scalar l) = true ∧ quietCheck (partialPolicy (scalar l)) = true := by decide
  refine ⟨fun l hl => ?_, ⟨h2, by decide, rfl, ⟨h2.1, h2.2, h2.3, h2.4⟩, by decide⟩, ⟨h1, by decide, by decide⟩,
    ⟨h5, by decide, by decide⟩, h6, h7, h4, h3⟩
  obtain ⟨hq, hp⟩ := all l hl
  obtain ⟨a, b, c, d⟩ := scalar_ok l hq
  exact ⟨a, b, c, d, quiet_partial b hp⟩

/-- `100` (P2). -/
theorem witness_PowerOfTwoIsRepeatedDoubling :
    (let s := scalar [0x31, 0x30, 0x30];
      Quiet s ∧ Configured s 23 0 ∧ s.regs.ax = .value 2 ∧ s.regs.ay = .value 7 ∧ Processes s 2 0x30#8 ∧
      s.len.toNat = 2 + 1 ∧ (∀ i, 1 ≤ i → i ≤ 2 → Memory.read s.dig i = some 0x30#8) ∧ lifted23.params = s.params ∧
      lifted23.regs.z = .value (fpOne s.params 23 0) ∧ lifted23.regs.z2 = .value (fpOne s.params 23 0) ∧
      lifted23.regs.z3 = .value (fpOne s.params 23 0)) ∧
    Quiet lifted23 ∧ Configured lifted23 23 0 ∧ 2 < 23 ∧ 7 < 23 ∧ lifted23.regs.x = .value 2 ∧
    lifted23.regs.y = .value 7 := by
  refine ⟨⟨quiet_of_check (by decide), configured_scalar _, rfl, rfl, processes23.2.2.2.2.1, rfl, ?_, rfl, rfl, rfl, rfl⟩,
    quiet_of_check (by decide), configured_core _, by decide, by decide, rfl, rfl⟩
  intro i h1 h2
  interval_cases i <;> decide

/-- The curve `y^2 = x^3 - 3x + 3` over the field of seven elements. -/
abbrev curve7 : WeierstrassCurve.Affine (ZMod 7) := (WeierstrassCurve.mk 0 0 0 (-3) 3 : WeierstrassCurve (ZMod 7)).toAffine

theorem point7 : curve7.Nonsingular 5 1 := by
  rw [WeierstrassCurve.Affine.nonsingular_iff, WeierstrassCurve.Affine.equation_iff]
  decide

theorem prime7 : Fact (Nat.Prime 7) := ⟨by norm_num⟩

theorem some_congr {F : Type} [Field F] [DecidableEq F] {W : WeierstrassCurve.Affine F} {x y x' y' : F}
    {h : W.Nonsingular x y} {h' : W.Nonsingular x' y'} (ex : x = x') (ey : y = y') :
    WeierstrassCurve.Affine.Point.some x y h = .some x' y' h' := by
  subst ex ey
  rfl

/-- The tangent at `(5, 1)` has slope 1 and meets the curve at `x = 5` again. -/
theorem tangent7 : (1 : ZMod 7) ≠ curve7.negY 5 1 ∧ 1 - curve7.negY 5 1 ≠ 0 ∧
    3 * 5 ^ 2 + 2 * curve7.a₂ * 5 + curve7.a₄ - curve7.a₁ * 1 = 1 * (1 - curve7.negY 5 1) ∧
    curve7.addX 5 5 1 = 5 ∧ curve7.negAddY 5 5 1 1 = 1 := by decide

/-- The point `(5, 1)` has order 3: its double is its negative. -/
theorem order7 [Fact (Nat.Prime 7)] : addOrderOf (WeierstrassCurve.Affine.Point.some 5 1 point7) = 3 := by
  have : Fact (Nat.Prime 3) := ⟨by norm_num⟩
  obtain ⟨hy, h0, hs, hx, hn⟩ := tangent7
  have slope : curve7.slope 5 5 1 1 = 1 := by
    rw [WeierstrassCurve.Affine.slope_of_Y_ne rfl hy]
    exact (div_eq_iff h0).mpr hs
  have twice : WeierstrassCurve.Affine.Point.some 5 1 point7 + .some 5 1 point7 =
      -WeierstrassCurve.Affine.Point.some 5 1 point7 := by
    rw [WeierstrassCurve.Affine.Point.add_self_of_Y_ne' hy]
    exact congrArg Neg.neg (some_congr (by rw [slope]; exact hx) (by rw [slope]; exact hn))
  refine addOrderOf_eq_prime ?_ (WeierstrassCurve.Affine.Point.some_ne_zero point7)
  rw [succ_nsmul, two_nsmul, twice, neg_add_cancel]

/-- The core configured for it, with the string `10`. -/
def core7 : State := { scalar [0x31, 0x30] with p := .value 7, regs := file 0 0 0 0 0 5 1 }

theorem witness_ScalarMultiplicationIsCorrect : ∃ _ : Fact (Nat.Prime 7),
    Quiet core7 ∧ Configured core7 7 0 ∧ Means core7 7 0 .ax (5 : ZMod 7) ∧ Means core7 7 0 .ay (1 : ZMod 7) ∧
    Processes core7 1 0x30#8 ∧ core7.len.toNat = 1 + 1 ∧ Nat.Prime 3 ∧ 3 ≠ 2 ∧
    addOrderOf (WeierstrassCurve.Affine.Point.some 5 1 point7) = 3 ∧ scalarTo core7.dig 1 < 3 := by
  have := prime7
  refine ⟨prime7, quiet_of_check (by decide), ⟨rfl, rfl, by decide⟩, means23 (v := 5) rfl rfl (by decide),
    by simpa using means23 (s := core7) (mc := 0) (p := 7) (v := 1) (r := .ay) rfl rfl (by decide), ⟨by decide, ?_, .inl rfl, by decide⟩, rfl,
    by norm_num, by decide, order7, by decide⟩
  intro i h1 h2
  interval_cases i
  decide

/-- A command of each kind at both ends of the range of codes. -/
theorem witness_EveryCommandEnds : Quiet lifted23 ∧ 0 < 256 ∧ 255 < 256 := ⟨quiet_of_check (by decide), by decide, by decide⟩

end Sys2Proof.Tests
end

section
/-!
What one step can be, said once: who takes it, and what the sequencer does when it takes it. The statements about the
state (`10_state.md`) are case splits over these two inversions.
-/

namespace Sys2Proof.Proofs

open Sys2Proof.Machine Sys2Proof.Laws

/-! ## The three error classes (R157) -/

@[simp] theorem raiseError_malformedScalarDigit (s : State) :
    raiseError .malformedScalarDigit s = setUnit .fin (setFlag .errDigit true s) := rfl

@[simp] theorem raiseError_unsupportedNormalizationBranch (s : State) :
    raiseError .unsupportedNormalizationBranch s = finish (setFlag .errNorm true s) := rfl

@[simp] theorem raiseError_illegalCommand (s : State) :
    raiseError .illegalCommand s = setFlag .done true (setFlag .errCmd true s) := rfl

/-! ## The commands -/

/-- Every code is one of the five commands or an illegal one (R68, R69). -/
theorem decodeCommand_cases (c : Code) :
    decodeCommand c = .cmdDbl ∨ decodeCommand c = .cmdAdd ∨ decodeCommand c = .cmdSmul ∨ decodeCommand c = .cmdAff ∨
    decodeCommand c = .cmdKp ∨ decodeCommand c = .cmdIllegal c := by
  unfold decodeCommand
  split <;> simp

/-- All that a command written to a core that is not busy can do when it answers a state (R135). -/
inductive CommandKind (s t : State) : Prop
  /-- `DBL` and `ADD`. -/
  | primitive (c : Code) (u : SeqUnit) (which : (c = 0x01#8 ∧ u = .dbl) ∨ (c = 0x02#8 ∧ u = .add))
      (check : checkModulus (takeCommand c s) = none)
      (result_eq : t = enterPrimitive u (setFlag .busy true (takeCommand c s)))
  /-- `SMUL` and `KP`. -/
  | driver (c : Code) (which : driverCommand c = true) (check : checkDriver (takeCommand c s) = none)
      (result_eq : t = setUpc 0 (setUnit .init (setFlag .busy true (takeCommand c s))))
  /-- `AFF`. -/
  | convert (check : checkModulus (takeCommand 0x04#8 s) = none)
      (result_eq : t = setUnit .affsel (setFlag .busy true (takeCommand 0x04#8 s)))
  /-- An illegal code. -/
  | illegal (c : Code) (result_eq : t = raiseError .illegalCommand (takeCommand c s))

theorem commandKind_of_next {c : Code} {s t : State} (hb : flag .busy s = false)
    (h : exec (decodeCommand c) s = .next t) : CommandKind s t := by
  have accepted : ∀ {c check enter}, accept c check enter s = .next t →
      check (takeCommand c s) = none ∧ t = enter (setFlag .busy true (takeCommand c s)) := fun h => by
    obtain ⟨hb', -⟩ | ⟨-, h⟩ := accept_next.mp h
    · rw [hb] at hb'; cases hb'
    · exact h
  obtain hc | hc | hc | hc | hc | hc := decodeCommand_cases c <;> rw [hc] at h
  · obtain ⟨check, result_eq⟩ := accepted h
    exact .primitive _ .dbl (.inl ⟨rfl, rfl⟩) check result_eq
  · obtain ⟨check, result_eq⟩ := accepted h
    exact .primitive _ .add (.inr ⟨rfl, rfl⟩) check result_eq
  · rw [exec_cmdSmul, execCmdSmul] at h
    obtain ⟨check, result_eq⟩ := accepted h
    exact .driver _ (by decide) check result_eq
  · obtain ⟨check, result_eq⟩ := accepted h
    exact .convert check result_eq
  · rw [exec_cmdKp, execCmdKp] at h
    obtain ⟨check, result_eq⟩ := accepted h
    exact .driver _ (by decide) check result_eq
  · obtain ⟨hb', -⟩ | ⟨-, result_eq⟩ := execCmdIllegal_next.mp h
    · rw [hb] at hb'; cases hb'
    · exact .illegal c result_eq

/-! ## The sequencer's step, unit by unit (R142) -/

theorem sequencerStep_idle {s : State} (hu : s.unit = .idle) : sequencerStep s = .next s := by
  simp [sequencerStep, sequencerItem, sequencerControl, hu]

theorem sequencerStep_fin {s : State} (hu : s.unit = .fin) : sequencerStep s = finStep s := by
  simp [sequencerStep, sequencerItem, sequencerControl, hu]

theorem sequencerStep_affsel {s : State} (hu : s.unit = .affsel) : sequencerStep s = .next (selectStep s) := by
  simp [sequencerStep, sequencerItem, sequencerControl, hu]

/-- The fetch step (R111): the symbol at `DPOS` is read and run, or there is none left. -/
theorem sequencerStep_fetch {s : State} (hu : s.unit = .fetch) :
    sequencerStep s =
      if s.dpos.toNat < s.len.toNat then
        match readDigit s.dpos.toNat s with
        | .error f => .fault f
        | .ok c => exec (decodeSymbol c) s
      else .next (setUnit .fin s) := by
  by_cases hl : s.dpos.toNat < s.len.toNat
  · by_cases hn : s.dpos.toNat < s.params.ndig
    · cases hm : Memory.read s.dig s.dpos.toNat <;>
        simp [sequencerStep, sequencerItem, sequencerControl, fetchControl, readDigit, decode, hu, hl, hn, hm]
    · simp [sequencerStep, sequencerItem, sequencerControl, fetchControl, readDigit, hu, hl, hn]
  · simp [sequencerStep, sequencerItem, sequencerControl, fetchControl, hu, hl, Nat.le_of_not_lt hl]

/-- At a slot of a ROM the step is the micro-operation that the slot's word names (R43, R77). -/
theorem sequencerStep_slot {s : State} (hinj : s.injected = none) {op : OpKind} {dst sa : Reg} {sb : Option Reg}
    (hk : s.upc < romLength s.unit) (hf : slotFields s.unit s.upc = some (op, dst, sa, sb)) :
    sequencerStep s = microStep op dst sa sb s := by
  obtain ⟨op', dst', sa', sb', -, hf', -, h⟩ | ⟨c, hu, -⟩ | ⟨hn, -⟩ := sequencerStep_cases hinj
  · rw [hf] at hf'
    cases hf'
    exact h
  · simp [hu, romLength] at hk
  · obtain ⟨w, hw⟩ := Option.isSome_iff_exists.mp (romWord_isSome.mpr hk)
    simp [sequencerItem_slot hinj hw] at hn

/-- Above the last word of a ROM there is nothing to fetch (log entry 10). -/
theorem sequencerStep_noWord {s : State} (hinj : s.injected = none) (hr : romLength s.unit ≠ 0)
    (hk : romLength s.unit ≤ s.upc) : sequencerStep s = .fault (.noRomWord s.unit s.upc) := by
  have hw : romWord s.unit s.upc = none := by simpa [romWord, romWords_length] using hk
  unfold sequencerStep sequencerItem sequencerControl
  cases hu : s.unit <;> simp_all [romLength]

/-- An injected word is run as its fields say, or is not legal (R61; log entry 6). -/
theorem sequencerStep_word {s : State} {w : MicroWord} (hinj : s.injected = some w) (hr : romLength s.unit ≠ 0) :
    sequencerStep s =
      match decodeMicro w with
      | .ok i => exec i { s with injected := none }
      | .error e => .fault (.illegalMicroOp e.theWord) := by
  unfold sequencerStep sequencerItem
  cases hu : s.unit <;> simp_all [romLength, decode] <;> rfl

/-- A word decodes to one of the five micro-operations, or to the row of the reserved codes (R58). -/
theorem exec_decodeMicro {w : MicroWord} {i : Instr} (h : decodeMicro w = .ok i) :
    (∃ op dst sa sb, ∀ s, exec i s = microStep op dst sa sb s) ∨ ∃ v, ∀ s, exec i s = .fault (.illegalMicroOp v) := by
  have two : ∀ {make : Reg → Reg → Reg → Instr}, decodeTwo w make = .ok i → ∃ dst sa sb, i = make dst sa sb := by
    intro make h
    unfold decodeTwo at h
    repeat' split at h
    all_goals cases h
    exact ⟨_, _, _, rfl⟩
  have one : ∀ {make : Reg → Reg → Instr}, decodeOne w make = .ok i → ∃ dst sa, i = make dst sa := by
    intro make h
    unfold decodeOne at h
    repeat' split at h
    all_goals cases h
    exact ⟨_, _, rfl⟩
  unfold decodeMicro at h
  split at h
  · obtain ⟨dst, sa, sb, rfl⟩ := two h
    exact .inl ⟨_, _, _, _, fun _ => rfl⟩
  · obtain ⟨dst, sa, sb, rfl⟩ := two h
    exact .inl ⟨_, _, _, _, fun _ => rfl⟩
  · obtain ⟨dst, sa, sb, rfl⟩ := two h
    exact .inl ⟨_, _, _, _, fun _ => rfl⟩
  · obtain ⟨dst, sa, rfl⟩ := one h
    exact .inl ⟨_, _, _, _, fun _ => rfl⟩
  · obtain ⟨dst, sa, rfl⟩ := one h
    exact .inl ⟨_, _, _, _, fun _ => rfl⟩
  · cases h
    exact .inr ⟨w, fun _ => rfl⟩

/-- All that a step of the sequencer can be when it answers a state. -/
inductive SequencerKind (s t : State) : Prop
  /-- The micro-operation of the slot at `UPC`. -/
  | slot (op : OpKind) (dst sa : Reg) (sb : Option Reg) (v : Nat) (inside : s.upc < romLength s.unit)
      (fields : slotFields s.unit s.upc = some (op, dst, sa, sb)) (legal : dst.legalDst = true)
      (result : microResult op sa sb s = .ok v) (result_eq : t = retire op dst sa sb v s)
  /-- An injected word, which no reachable state has (log entry 6). -/
  | word (op : OpKind) (dst sa : Reg) (sb : Option Reg) (v : Nat) (injected : s.injected ≠ none)
      (legal : dst.legalDst = true) (result_eq : t = retire op dst sa sb v { s with injected := none })
  /-- A digit is fetched. -/
  | digit (c : Symbol) (unit : s.unit = .fetch) (left : s.dpos.toNat < s.len.toNat)
      (valid : c = 0x30#8 ∨ c = 0x31#8) (result_eq : t = enterPrimitive .dbl (setCur c s))
  /-- A malformed symbol is fetched. -/
  | malformed (c : Symbol) (unit : s.unit = .fetch)
      (result_eq : t = raiseError .malformedScalarDigit (setCur c s))
  /-- No symbol is left. -/
  | noDigit (unit : s.unit = .fetch) (result_eq : t = setUnit .fin s)
  | fin (c : Symbol) (unit : s.unit = .fin) (result_eq : t = afterFin (setLastd c s))
  | select (unit : s.unit = .affsel) (result_eq : t = selectStep s)
  | idle (unit : s.unit = .idle) (result_eq : t = s)

/-- The inversion of the fetch step. -/
theorem sequencerKind_of_fetch {s t : State} (hu : s.unit = .fetch) (h : sequencerStep s = .next t) :
    SequencerKind s t := by
  rw [sequencerStep_fetch hu] at h
  split at h
  · rename_i hl
    split at h
    · cases h
    · rename_i c _
      unfold decodeSymbol at h
      split_ifs at h with h0 h1 <;> cases h
      · exact .digit _ hu hl (.inl rfl) rfl
      · exact .digit _ hu hl (.inr rfl) rfl
      · exact .malformed c hu rfl
  · cases h
    exact .noDigit hu rfl

/-- The inversion of a step at a unit that names a ROM. -/
theorem sequencerKind_of_rom {s t : State} (hr : romLength s.unit ≠ 0) (h : sequencerStep s = .next t) :
    SequencerKind s t := by
  cases hinj : s.injected with
  | none =>
    by_cases hk : s.upc < romLength s.unit
    · obtain ⟨op, dst, sa, sb, hf, hd, -⟩ := slotFields_of_lt hk
      rw [sequencerStep_slot hinj hk hf, microStep_next] at h
      obtain ⟨-, v, hv, result_eq⟩ := h
      exact .slot op dst sa sb v hk hf hd hv result_eq
    · rw [sequencerStep_noWord hinj hr (Nat.le_of_not_lt hk)] at h
      cases h
  | some w =>
    rw [sequencerStep_word hinj hr] at h
    split at h
    · rename_i i hi
      obtain ⟨op, dst, sa, sb, hx⟩ | ⟨v, hx⟩ := exec_decodeMicro hi <;> rw [hx] at h
      · obtain ⟨hd, v, -, result_eq⟩ := microStep_next.mp h
        exact .word op dst sa sb v (by simp [hinj]) hd result_eq
      · cases h
    · cases h

/-- The inversion of the sequencer's step: one case per unit. -/
theorem sequencerKind_of_next {s t : State} (h : sequencerStep s = .next t) : SequencerKind s t := by
  cases hu : s.unit with
  | idle =>
    rw [sequencerStep_idle hu] at h
    cases h
    exact .idle hu rfl
  | fetch => exact sequencerKind_of_fetch hu h
  | fin =>
    rw [sequencerStep_fin hu] at h
    obtain ⟨-, result_eq⟩ | ⟨-, c, -, result_eq⟩ := finStep_next h
    · exact .fin _ hu result_eq
    · exact .fin c hu result_eq
  | affsel =>
    rw [sequencerStep_affsel hu] at h
    cases h
    exact .select hu rfl
  | init | dbl | add | aff1 | aff0 => exact sequencerKind_of_rom (by simp [hu, romLength]) h

/-! ## Who takes the step -/

/-- All that a step from `s` to `t` can be, by who takes it (R45, R135, R142, R170; log entry 5). -/
inductive StepKind (s t : State) : Prop
  /-- The reset event, asked for next or as the exit from a model fault. -/
  | reset (rest : List Input) (mem : Input.reset ∈ s.inputs) (result_eq : t = resetEvent { s with inputs := rest })
  /-- A transaction that only answers: a read, or one that is refused. -/
  | reply (r : Reply) (rest : List Input) (result_eq : t = answer r { s with inputs := rest })
  /-- A host write that is a store. -/
  | store (r : HostReg) (ha v : Nat) (rest : List Input) (reg : hostReg s.params ha = some r)
      (free : flag .busy s = false) (writable : hostWritable r = true) (fits : v < 2 ^ hostWidth s.params r)
      (result_eq : t = answer .done (hostStore r v { s with inputs := rest }))
  /-- A command written to `CMD` of a core that is not busy. -/
  | command (rest : List Input) (free : flag .busy s = false) (kind : CommandKind { s with inputs := rest } t)
  /-- The sequencer's own step. -/
  | sequencer (is : List Input) (kind : SequencerKind { s with inputs := is } t)

/-- A reset is the reset of the specification's statements. -/
theorem resetTaken_of_reset {s t : State} {rest : List Input} (mem : Input.reset ∈ s.inputs)
    (result_eq : t = resetEvent { s with inputs := rest }) : ResetTaken s t := by
  subst result_eq
  exact ⟨mem, rfl⟩

/-- A step that answers a state is what was attempted, or the reset that follows a fault. -/
theorem stepKind_of_faultExit {s t : State} {r : Result} (h : faultExit s r = .next t)
    (attempted : r = .next t → StepKind s t) : StepKind s t := by
  obtain h | ⟨f, rest, -, hr, ht⟩ := faultExit_eq_next h
  · exact attempted h
  · obtain ⟨pre, -, hi⟩ := afterReset_eq_some.mp hr
    exact .reset rest (by simp [hi]) ht

/-- The inversion of the step: one case per kind of host input. -/
theorem stepKind_of_next {s t : State} (h : step s = .next t) : StepKind s t := by
  cases hi : s.inputs with
  | nil =>
    rw [step_nil hi] at h
    exact .sequencer s.inputs (sequencerKind_of_next h)
  | cons i rest =>
    cases i with
    | tick =>
      rw [step_tick hi] at h
      exact stepKind_of_faultExit h fun h => .sequencer rest (sequencerKind_of_next h)
    | waitDone =>
      cases hd : flag .done s with
      | false =>
        rw [step_wait hi hd] at h
        exact stepKind_of_faultExit h fun h => .sequencer s.inputs (sequencerKind_of_next h)
      | true =>
        rw [step_wait_over hi hd] at h
        cases h
        exact .reply _ rest rfl
    | reset =>
      rw [step_reset hi] at h
      cases h
      exact .reset rest (by simp [hi]) rfl
    | read ha =>
      rw [step_read hi, hostRead_eq] at h
      cases h
      exact .reply _ rest rfl
    | write ha v =>
      by_cases hc : ha = 0x0000 ∧ hostWriteLegal ha v s = true
      · obtain ⟨rfl, hl⟩ := hc
        rw [step_command hi hl] at h
        have free := (hostWriteLegal_cmd.mp hl).1
        exact stepKind_of_faultExit h fun h =>
          .command rest free (commandKind_of_next (s := { s with inputs := rest }) free h)
      · rw [step_write hi hc] at h
        cases h
        obtain hr | ⟨r, hr, hb, hw, hv, hs⟩ := hostWrite_cases ha v { s with inputs := rest }
        · exact .reply .refused rest hr
        · exact .store r ha v rest hr hb hw hv hs

end Sys2Proof.Proofs
end

section
/-!
The invariant holds at reset and every step keeps it (R36). A step lands in one of three kinds of state: idle
(`Invariant_idle`), at the entry of a unit (`Invariant_of_entry`), or inside a microprogram (`Invariant_inside`).
-/

namespace Sys2Proof.Proofs

open Sys2Proof.Machine Sys2Proof.Laws

/-! ## Data in range -/

@[simp] theorem putFlag_getLsbD_seven (st : BitVec 8) (f : Flag) (b : Bool) :
    (putFlag st f b).getLsbD 7 = st.getLsbD 7 := by
  cases f <;> cases b <;> simp [putFlag, flagMask, flagBit]

/-- The registers of the sequencer and the fields of the model may be anything. -/
theorem DataInRange_of_eq {s t : State} (d : DataInRange s) (bit7 : t.status.getLsbD 7 = false)
    (e : t = { s with
      len := t.len, dpos := t.dpos, lastd := t.lastd, status := t.status, unit := t.unit, upc := t.upc,
      cmdr := t.cmdr, cur := t.cur, inputs := t.inputs, reply := t.reply }) : DataInRange t := by
  rw [e]
  exact ⟨d.params_valid, bit7, d.dig_wf, d.dig_bound, d.regs_fit, d.p_fits, d.mc_fits, d.trace_slots, d.not_injected⟩

theorem DataInRange_clearScratch {s : State} (d : DataInRange s) : DataInRange (clearScratch s) :=
  { d with
    regs_fit := fun r v h => by
      rw [clearScratch_get] at h
      split at h
      · cases h
      · exact d.regs_fit r v h }

theorem DataInRange_putReg {s : State} (d : DataInRange s) (r : Reg) {v : Nat} (hv : v < 2 ^ s.params.w) :
    DataInRange (putReg r v s) :=
  { d with
    regs_fit := fun q w h => by
      rw [putReg_regs, RegFile_get_set] at h
      split at h
      · cases h; exact hv
      · exact d.regs_fit q w h }

theorem DataInRange_emit {s : State} (d : DataInRange s) {e : Event}
    (he : slotEvent e.unit (e.slot - 1) = some e) : DataInRange (emit e s) :=
  { d with
    trace_slots := fun e' h => by
      obtain h | h := List.mem_append.mp h
      · exact d.trace_slots e' h
      · rw [List.mem_singleton.mp h]; exact he }

theorem DataInRange_enterPrimitive {s : State} (d : DataInRange s) (u : SeqUnit) : DataInRange (enterPrimitive u s) :=
  DataInRange_of_eq (DataInRange_clearScratch d) d.reserved_bit rfl

theorem DataInRange_takeCommand {s : State} (d : DataInRange s) (c : Code) : DataInRange (takeCommand c s) :=
  DataInRange_of_eq d (by simpa using d.reserved_bit) rfl

theorem DataInRange_setFlag {s : State} (d : DataInRange s) (f : Flag) (b : Bool) : DataInRange (setFlag f b s) :=
  DataInRange_of_eq d (by simpa using d.reserved_bit) rfl

/-- What the host stores fits the register it names, and is an entry of `DIG` below `NDIG` (R44). -/
theorem DataInRange_hostStore {s : State} (d : DataInRange s) {r : HostReg} {ha v : Nat}
    (reg : hostReg s.params ha = some r) (fits : v < 2 ^ hostWidth s.params r) : DataInRange (hostStore r v s) := by
  cases r with
  | cmd | status | dpos | len | lastd => exact DataInRange_of_eq d d.reserved_bit rfl
  | field r => exact DataInRange_putReg d r fits
  | p => exact { d with p_fits := fun w h => by cases h; exact fits }
  | mc => exact { d with mc_fits := fun w h => by cases h; exact fits }
  | dig j =>
    exact { d with
      dig_wf := Memory_wf_write j _ d.dig_wf
      dig_bound := fun i hi => by
        have hj := (hostReg_dig reg).1
        change s.params.ndig ≤ i at hi
        change Memory.read (Memory.write s.dig j _) i = none
        rw [Memory_read_write_other _ _ (by omega)]
        exact d.dig_bound i hi }

theorem DataInRange_resetWith {c : Params} (hc : c.valid = true) : DataInRange (State.resetWith c) where
  params_valid := hc
  reserved_bit := by simp [State.resetWith]
  dig_wf := rfl
  dig_bound := fun _ _ => rfl
  regs_fit := fun r v h => by
    change RegFile.unwritten.get r = .value v at h
    rw [RegFile_unwritten_get] at h
    cases h
  p_fits := fun _ h => by cases h
  mc_fits := fun _ h => by cases h
  trace_slots := fun _ h => by cases h
  not_injected := rfl

/-! ## Idle states -/

@[simp] theorem flag_resetWith (g : Flag) (c : Params) : flag g (State.resetWith c) = false := by
  simp [flag, getFlag, State.resetWith]

theorem Invariant_resetWith {c : Params} (hc : c.valid = true) : Invariant (State.resetWith c) :=
  Invariant_idle (DataInRange_resetWith hc) rfl rfl (by simp) (by simp)

/-- Settles O37. -/
theorem resetMeetsTheInvariant : Obligations.ResetMeetsTheInvariant :=
  ⟨Invariant_resetWith (by decide), fun _ => Invariant_resetWith⟩

theorem Invariant_resetEvent {s : State} (h : Invariant s) : Invariant (resetEvent s) :=
  Invariant_of_eq (Invariant_resetWith h.params_valid) rfl

/-- A finish leads to an idle state, whatever ran (R143). -/
theorem Invariant_finish {s : State} (d : DataInRange s)
    (out : flag .outValid s = true → s.regs.xa ≠ .unwritten ∧ s.regs.ya ≠ .unwritten) : Invariant (finish s) :=
  Invariant_idle (DataInRange_of_eq d (by simpa using d.reserved_bit) rfl) rfl rfl (by simp) (by simpa using out)

/-- A store by the host, which an idle core alone accepts (R45). -/
theorem Invariant_hostStore {s : State} (h : Invariant s) {r : HostReg} {ha v : Nat}
    (reg : hostReg s.params ha = some r) (free : flag .busy s = false) (writable : hostWritable r = true)
    (fits : v < 2 ^ hostWidth s.params r) : Invariant (hostStore r v s) := by
  have hu := Invariant_idle_of_not_busy h free
  obtain ⟨-, -, status, unit, upc, -⟩ := hostStore_frame r v s
  refine Invariant_idle (DataInRange_hostStore (Invariant_data h) reg fits) (unit.trans hu)
    (upc.trans (Invariant_upc_idle h hu)) (by simpa [flag, status] using free) fun ho => ?_
  have out := h.out_written (by simpa [flag, status] using ho)
  cases r with
  | field r => cases r <;> first | exact out | cases writable
  | _ => exact out

/-! ## The entry of a unit -/

/-- A command is running: the core is busy, nothing is reported yet, and the accept step's checks have passed
(R30, R161). -/
structure Running (s : State) : Prop where
  busy : flag .busy s = true
  done : flag .done s = false
  outValid : flag .outValid s = false
  modulus : ∃ p mc, s.p = .value p ∧ s.mc = .value mc ∧ goodModulus s.params p = true

theorem Invariant_running {s : State} (h : Invariant s) (hu : s.unit ≠ .idle) : Running s where
  busy := h.busy_iff.mpr hu
  done := by
    cases hd : flag .done s
    · rfl
    · exact absurd (h.done_idle hd) hu
  outValid := by
    cases hd : flag .outValid s
    · rfl
    · exact absurd (h.valid_idle hd) hu
  modulus := h.modulus_good hu

/-- What the invariant asks of a state in which a unit is at its first step. -/
structure Entry (t : State) : Prop where
  data : DataInRange t
  running : Running t
  unit : t.unit ≠ .idle
  upc : t.upc = 0
  serves : unitServes t.unit t.cmdr = true
  cur_digit : atDigit t = true → t.cur = 0x31#8 ∨ (t.cur = 0x30#8 ∧ t.unit = .dbl)
  len_bound : inDriver t = true → t.len.toNat ≤ t.params.ndig
  dpos_digit : atDigit t = true → 1 ≤ t.dpos.toNat ∧ t.dpos.toNat < t.len.toNat
  dpos_driver : t.unit = .fetch ∨ t.unit = .fin → 1 ≤ t.dpos.toNat ∧ t.dpos.toNat ≤ max 1 t.len.toNat
  scratch : usesScratch t.unit = true → ∀ r, r.isScratch = true → t.regs.get r = .unwritten
  point : afterInit t = true → ∀ r, r.isPoint = true ∨ r = .ax ∨ r = .ay → Holds t r

theorem Invariant_of_entry {t : State} (e : Entry t) : Invariant t where
  params_valid := e.data.params_valid
  reserved_bit := e.data.reserved_bit
  dig_wf := e.data.dig_wf
  dig_bound := e.data.dig_bound
  regs_fit := e.data.regs_fit
  p_fits := e.data.p_fits
  mc_fits := e.data.mc_fits
  trace_slots := e.data.trace_slots
  not_injected := e.data.not_injected
  busy_iff := by simp [e.running.busy, e.unit]
  done_idle := by simp [e.running.done]
  valid_idle := by simp [e.running.outValid]
  out_written := by simp [e.running.outValid]
  modulus_good := fun _ => e.running.modulus
  upc_bound := by
    rw [e.upc]
    split
    · rfl
    · exact Nat.pos_of_ne_zero ‹_›
  unit_serves := e.serves
  cur_digit := e.cur_digit
  len_bound := e.len_bound
  dpos_digit := e.dpos_digit
  dpos_driver := e.dpos_driver
  slots_held := by simp [e.upc, writtenBefore, readBefore]
  scratch_unwritten := fun r hr hs _ => e.scratch hs r hr
  point_holds := e.point
  converter_square := by simp [e.upc]
  converter_nonzero := by simp [e.upc]

/-- `enterPrimitive` leaves the scratch registers unwritten, and no others (R16). -/
theorem enterPrimitive_scratch (u : SeqUnit) (s : State) {r : Reg} (hr : r.isScratch = true) :
    (enterPrimitive u s).regs.get r = .unwritten := by
  simp only [enterPrimitive_regs, clearScratch_get, hr, if_true]

/-- Registers of the Point and the addend are no scratch registers (R14, R15). -/
theorem isScratch_of_point {r : Reg} (h : r.isPoint = true ∨ r = .ax ∨ r = .ay) : r.isScratch = false := by
  obtain h | rfl | rfl := h
  · cases r <;> first | rfl | cases h
  · rfl
  · rfl

theorem Holds_enterPrimitive {s : State} {r : Reg} (u : SeqUnit) (hr : r.isScratch = false) (h : Holds s r) :
    Holds (enterPrimitive u s) r := by
  obtain ⟨v, p, hv, hp, hlt⟩ := h
  exact ⟨v, p, by rw [enterPrimitive_regs, clearScratch_get, hr]; exact hv, hp, hlt⟩

/-! ### By a command -/

/-- An accepted command is running, once its check of `P` and `MC` has passed (R135, R161). -/
theorem Running_takeCommand {c : Code} {s : State} (check : checkModulus (takeCommand c s) = none) :
    Running (setFlag .busy true (takeCommand c s)) where
  busy := by simp
  done := by simp
  outValid := by simp
  modulus := checkModulus_none.mp check

theorem Invariant_command {s t : State} (h : Invariant s) (free : flag .busy s = false) (k : CommandKind s t) :
    Invariant t := by
  have hu := Invariant_idle_of_not_busy h free
  have d := fun c => DataInRange_setFlag (DataInRange_takeCommand (Invariant_data h) c) .busy true
  cases k with
  | primitive c u which check result_eq =>
    subst result_eq
    have run := Running_takeCommand check
    have notDriver : driverCommand c = false := by obtain ⟨rfl, -⟩ | ⟨rfl, -⟩ := which <;> rfl
    refine Invariant_of_entry {
      data := DataInRange_enterPrimitive (d c) u
      running := ⟨run.1, run.2, run.3, run.4⟩
      unit := ?_, upc := rfl, serves := ?_, cur_digit := ?_, len_bound := ?_, dpos_digit := ?_, dpos_driver := ?_
      scratch := fun _ r hr => enterPrimitive_scratch u _ hr
      point := ?_ }
    all_goals obtain ⟨rfl, rfl⟩ | ⟨rfl, rfl⟩ := which <;> simp [unitServes, atDigit, inDriver, afterInit, notDriver]
  | driver c which check result_eq =>
    subst result_eq
    obtain ⟨check, hlen⟩ := checkDriver_none.mp check
    have run := Running_takeCommand check
    exact Invariant_of_entry {
      data := DataInRange_of_eq (d c) (d c).reserved_bit rfl
      running := ⟨run.1, run.2, run.3, run.4⟩
      unit := by simp
      upc := rfl
      serves := which
      cur_digit := by simp [atDigit]
      len_bound := fun _ => hlen
      dpos_digit := by simp [atDigit]
      dpos_driver := by simp
      scratch := by simp [usesScratch]
      point := by simp [afterInit] }
  | convert check result_eq =>
    subst result_eq
    have run := Running_takeCommand check
    exact Invariant_of_entry {
      data := DataInRange_of_eq (d _) (d _).reserved_bit rfl
      running := ⟨run.1, run.2, run.3, run.4⟩
      unit := by simp
      upc := by simpa using Invariant_upc_idle h hu
      serves := rfl
      cur_digit := by simp [atDigit]
      len_bound := by simp [inDriver, atDigit]
      dpos_digit := by simp [atDigit]
      dpos_driver := by simp
      scratch := by simp [usesScratch]
      point := by simp [afterInit, driverCommand] }
  | illegal c result_eq =>
    subst result_eq
    have dc := DataInRange_takeCommand (Invariant_data h) c
    refine Invariant_idle (DataInRange_setFlag (DataInRange_setFlag dc .errCmd true) .done true) ?_ ?_ ?_ ?_
    · simpa using hu
    · simpa using Invariant_upc_idle h hu
    · simpa using free
    · simp

/-! ### By the sequencer -/

/-- The driver's loop is at work under the commands of the driver alone (R142). -/
theorem driverCommand_of_fetch {s : State} (h : Invariant s) (hu : s.unit = .fetch ∨ s.unit = .fin) :
    driverCommand s.cmdr = true := by
  have := h.unit_serves
  obtain hu | hu := hu <;> rwa [hu] at this

/-- A digit starts the doubling (R112, R113). -/
theorem Invariant_digit {s : State} (h : Invariant s) {c : Symbol} (hu : s.unit = .fetch)
    (left : s.dpos.toNat < s.len.toNat) (valid : c = 0x30#8 ∨ c = 0x31#8) :
    Invariant (enterPrimitive .dbl (setCur c s)) := by
  have run := Invariant_running h (by simp [hu])
  have driver := driverCommand_of_fetch h (.inl hu)
  have d : DataInRange (setCur c s) := DataInRange_of_eq (Invariant_data h) h.reserved_bit rfl
  exact Invariant_of_entry {
    data := DataInRange_enterPrimitive d .dbl
    running := ⟨run.1, run.2, run.3, run.4⟩
    unit := by simp
    upc := rfl
    serves := by simp [unitServes, driver]
    cur_digit := fun _ => valid.symm.imp_right fun hc => ⟨hc, rfl⟩
    len_bound := fun _ => h.len_bound (by simp [inDriver, hu])
    dpos_digit := fun _ => ⟨(h.dpos_driver (.inl hu)).1, left⟩
    dpos_driver := by simp
    scratch := fun _ r hr => enterPrimitive_scratch .dbl _ hr
    point := fun _ r hr => Holds_enterPrimitive .dbl (isScratch_of_point hr)
      (h.point_holds (by simp [afterInit, hu, driver]) r hr) }

/-- From the fetch to the `FIN` step, with whatever flag of an error and whatever `CUR` (R111, R114). -/
theorem Invariant_toFin {s t : State} (h : Invariant s) (hu : s.unit = .fetch) (bit7 : t.status.getLsbD 7 = false)
    (run : Running t) (e : t = { s with unit := .fin, cur := t.cur, status := t.status }) : Invariant t := by
  have driver := driverCommand_of_fetch h (.inl hu)
  have unit : t.unit = .fin := by rw [e]
  have cmdr : t.cmdr = s.cmdr := by rw [e]
  have upc : t.upc = 0 := by
    have := h.upc_bound
    rw [hu] at this
    rw [e]
    exact this
  exact Invariant_of_entry {
    data := DataInRange_of_eq (Invariant_data h) bit7 (by rw [e])
    running := run
    unit := by simp [unit]
    upc := upc
    serves := by rw [unit, cmdr]; exact driver
    cur_digit := by simp [atDigit, unit]
    len_bound := fun _ => by rw [e]; exact h.len_bound (by simp [inDriver, hu])
    dpos_digit := by simp [atDigit, unit]
    dpos_driver := fun _ => by rw [e]; exact h.dpos_driver (.inl hu)
    scratch := by simp [usesScratch, unit]
    point := fun _ => by rw [e]; exact h.point_holds (by simp [afterInit, hu, driver]) }

/-- After the latch the core finishes, or goes to the converter under `KP` (R142, R148). -/
theorem Invariant_afterFin {s : State} (h : Invariant s) (hu : s.unit = .fin) : Invariant (afterFin s) := by
  have run := Invariant_running h (by simp [hu])
  by_cases hc : s.cmdr = 0x05#8 ∧ (flag .errDigit s = false ∨ s.params.policy = .normalizePartial)
  · rw [afterFin_converter hc.1 hc.2]
    exact Invariant_of_entry {
      data := DataInRange_of_eq (Invariant_data h) h.reserved_bit rfl
      running := ⟨run.1, run.2, run.3, run.4⟩
      unit := by simp
      upc := by simpa [hu, romLength] using h.upc_bound
      serves := by simp [unitServes, hc.1]
      cur_digit := by simp [atDigit]
      len_bound := by simp [inDriver, atDigit]
      dpos_digit := by simp [atDigit]
      dpos_driver := by simp
      scratch := by simp [usesScratch]
      point := fun _ => h.point_holds (by simp [afterInit, hu, driverCommand, hc.1]) }
  · rw [afterFin_finish hc]
    exact Invariant_finish (Invariant_data h) h.out_written

/-- The converter's microprograms are entered from the select step (R124). -/
theorem Invariant_enterConverter {s : State} (h : Invariant s) (hu : s.unit = .affsel) {u : SeqUnit}
    (which : u = .aff1 ∨ u = .aff0) : Invariant (enterPrimitive u s) := by
  have run := Invariant_running h (by simp [hu])
  have serves := h.unit_serves
  rw [hu] at serves
  refine Invariant_of_entry {
    data := DataInRange_enterPrimitive (Invariant_data h) u
    running := ⟨run.1, run.2, run.3, run.4⟩
    unit := ?_, upc := rfl, serves := ?serves, cur_digit := ?_, len_bound := ?_, dpos_digit := ?_, dpos_driver := ?_
    scratch := fun _ r hr => enterPrimitive_scratch u _ hr
    point := fun ha r hr => Holds_enterPrimitive u (isScratch_of_point hr) (h.point_holds ?after r hr) }
  case after =>
    simp only [afterInit, Bool.and_eq_true] at ha
    simpa [afterInit, hu] using ha.2
  case serves => obtain rfl | rfl := which <;> exact serves
  all_goals obtain rfl | rfl := which <;> simp [atDigit, inDriver]

theorem Invariant_selectStep {s : State} (h : Invariant s) (hu : s.unit = .affsel) : Invariant (selectStep s) := by
  unfold selectStep
  split_ifs
  · exact Invariant_enterConverter h hu (.inl rfl)
  · exact Invariant_enterConverter h hu (.inr rfl)
  · exact Invariant_finish (DataInRange_setFlag (Invariant_data h) .errNorm true)
      (by simpa using h.out_written)

end Sys2Proof.Proofs
end

section
/-!
The invariant inside the microprograms, and at their ends: what a slot writes, what the registers hold after it, and the
transition after the last one (R77, R142).
-/

namespace Sys2Proof.Proofs

open Sys2Proof.Machine Sys2Proof.Laws

/-! ## A slot that gets its result -/

/-- The sequencer is at a slot of a ROM, in a state that meets the invariant, and the slot's operation answers `v`. -/
structure AtSlot (s : State) (op : OpKind) (dst sa : Reg) (sb : Option Reg) (v : Nat) : Prop where
  inv : Invariant s
  inside : s.upc < romLength s.unit
  fields : slotFields s.unit s.upc = some (op, dst, sa, sb)
  legal : dst.legalDst = true
  result : microResult op sa sb s = .ok v

/-- The state after the write and its event, before the advance of `UPC` (R77). -/
def written (op : OpKind) (dst sa : Reg) (sb : Option Reg) (v : Nat) (s : State) : State :=
  emit { unit := s.unit, slot := s.upc + 1, op := op, dst := dst, sa := sa, sb := sb } (putReg dst v s)

theorem retire_eq_advance (op : OpKind) (dst sa : Reg) (sb : Option Reg) (v : Nat) (s : State) :
    retire op dst sa sb v s = advance (written op dst sa sb v s) := rfl

section Slot
variable {s : State} {op : OpKind} {dst sa : Reg} {sb : Option Reg} {v : Nat}

theorem written_get (r : Reg) (h : dst.legalDst = true) :
    (written op dst sa sb v s).regs.get r = if r = dst then .value v else s.regs.get r := by
  simp [written, legalDst_ne_one h]

/-- The unit of a slot names a ROM. -/
theorem AtSlot.unit_ne {u : SeqUnit} (a : AtSlot s op dst sa sb v) (hu : romLength u = 0) : s.unit ≠ u := by
  rintro rfl
  have := a.inside
  omega

theorem AtSlot.running (a : AtSlot s op dst sa sb v) : Running s := Invariant_running a.inv (a.unit_ne rfl)

/-- The modulus a run works with, and the bound it puts on the result (R76, R161). -/
theorem AtSlot.modulus (a : AtSlot s op dst sa sb v) :
    ∃ p mc, s.p = .value p ∧ s.mc = .value mc ∧ p.Prime ∧ 3 < p ∧ p < 2 ^ s.params.w ∧ v < p := by
  obtain ⟨p, mc, hp, hmc, good⟩ := a.running.modulus
  obtain ⟨prime, h3, hw⟩ := (goodModulus_iff _ _).mp good
  exact ⟨p, mc, hp, hmc, prime, h3, hw, microResult_lt a.result hp⟩

/-- What a slot reads is canonical (R161). -/
theorem Holds_of_slotReads (a : AtSlot s op dst sa sb v) {r : Reg} (h1 : r ≠ .one)
    (h : slotReads s.unit s.upc r = true) : Holds s r := by
  obtain ⟨x, y, p, mc, hx, hy, hp, -⟩ := microResult_ok.mp a.result
  have read : ∀ {w}, readReg r s = .ok w → Holds s r := fun hr =>
    ⟨_, _, readReg_ok_value h1 hr, (readReg_ok.mp hr).2.choose_spec⟩
  simp only [slotReads, a.fields, Bool.or_eq_true, beq_iff_eq] at h
  obtain rfl | rfl := h
  · exact read hx
  · exact read hy

theorem Holds_written (a : AtSlot s op dst sa sb v) {r : Reg} (h : r = dst ∨ Holds s r) :
    Holds (written op dst sa sb v s) r := by
  obtain ⟨p, mc, hp, -, -, -, -, hv⟩ := a.modulus
  by_cases hr : r = dst
  · exact ⟨v, p, by rw [written_get r a.legal, if_pos hr], hp, hv⟩
  · obtain ⟨w, q, hw, hq, hlt⟩ := h.resolve_left hr
    exact ⟨w, q, by rw [written_get r a.legal, if_neg hr]; exact hw, hq, hlt⟩

theorem slotWrites_eq (a : AtSlot s op dst sa sb v) (r : Reg) : slotWrites s.unit s.upc r = (dst == r) := by
  simp [slotWrites, a.fields]

/-- After the write, every register that this slot or an earlier one touches is canonical (R21). -/
theorem Holds_written_of_touched (a : AtSlot s op dst sa sb v) {r : Reg} (h1 : r ≠ .one)
    (h : (writtenBefore s.unit (s.upc + 1) r || readBefore s.unit (s.upc + 1) r) = true) :
    Holds (written op dst sa sb v s) r := by
  simp only [writtenBefore_succ, readBefore_succ, slotWrites_eq a, Bool.or_eq_true, beq_iff_eq] at h
  refine Holds_written a ?_
  rcases h with (h | h) | (h | h)
  · exact .inr (a.inv.slots_held r h1 (by simp [h]))
  · exact .inl h.symm
  · exact .inr (a.inv.slots_held r h1 (by simp [h]))
  · exact .inr (Holds_of_slotReads a h1 h)

/-- A scratch register that no slot has written yet is unwritten still (R16). -/
theorem written_scratch (a : AtSlot s op dst sa sb v) {r : Reg} (hr : r.isScratch = true)
    (hu : usesScratch s.unit = true) (h : writtenBefore s.unit (s.upc + 1) r = false) :
    (written op dst sa sb v s).regs.get r = .unwritten := by
  simp only [writtenBefore_succ, slotWrites_eq a, Bool.or_eq_false_iff, beq_eq_false_iff_ne] at h
  rw [written_get r a.legal, if_neg (Ne.symm h.2)]
  exact a.inv.scratch_unwritten r hr hu h.1

theorem DataInRange_written (a : AtSlot s op dst sa sb v) : DataInRange (written op dst sa sb v s) := by
  obtain ⟨p, mc, -, -, -, -, hw, hv⟩ := a.modulus
  exact DataInRange_emit (DataInRange_putReg (Invariant_data a.inv) dst (hv.trans hw)) (by simp [slotEvent, a.fields])

/-! ## The converter's inversions (R125, R162) -/

@[simp] theorem fpMul_zero_left (c : Params) (p mc b : Nat) : fpMul c p mc 0 b = 0 := by
  unfold fpMul
  split <;> simp

/-- The product of two canonical values that are not 0 is not 0. -/
theorem fpMul_ne_zero (c : Params) {p : Nat} (mc : Nat) (prime : p.Prime) (h3 : 3 < p) {a b : Nat} (ha : a < p)
    (hb : b < p) (ha0 : a ≠ 0) (hb0 : b ≠ 0) : fpMul c p mc a b ≠ 0 := by
  have := Fact.mk prime
  intro h
  have hm := fieldOf_mul c mc h3 a b
  rw [h, (fieldOf_eq_zero c mc h3 (by omega)).mpr rfl] at hm
  obtain h | h := mul_eq_zero.mp hm.symm
  · exact ha0 ((fieldOf_eq_zero c mc h3 ha).mp h)
  · exact hb0 ((fieldOf_eq_zero c mc h3 hb).mp h)

/-- A slot's operands, when neither source is `ONE`: the values the registers hold, canonical. -/
theorem AtSlot.operands {sb : Reg} (a : AtSlot s op dst sa (some sb) v) (ha : sa ≠ .one) (hb : sb ≠ .one) :
    ∃ x y p mc, s.regs.get sa = .value x ∧ s.regs.get sb = .value y ∧ s.p = .value p ∧ s.mc = .value mc ∧
      x < p ∧ y < p ∧ fieldPort s.params op x y p mc = .ok v := by
  obtain ⟨x, y, p, mc, hx, hy, hp, hmc, hf⟩ := microResult_ok.mp a.result
  have canonical : ∀ {r w}, readReg r s = .ok w → w < p := fun hr => by
    obtain ⟨-, q, hq, hlt⟩ := readReg_ok.mp hr
    rw [hp] at hq
    cases hq
    exact hlt
  exact ⟨x, y, p, mc, readReg_ok_value ha hx, readReg_ok_value hb hy, hp, hmc, canonical hx, canonical hy, hf⟩

/-- Slot 1 of `AFF1` squares `Z`. -/
theorem written_square (a : AtSlot s op dst sa sb v) (hu : s.unit = .aff1) (hk : s.upc = 0) :
    ∃ p mc z, (written op dst sa sb v s).p = .value p ∧ (written op dst sa sb v s).mc = .value mc ∧
      (written op dst sa sb v s).regs.z = .value z ∧
      (written op dst sa sb v s).regs.r0 = .value (fpMul s.params p mc z z) := by
  have hf : slotFields .aff1 0 = some (op, dst, sa, sb) := by rw [← hu, ← hk]; exact a.fields
  cases hf
  obtain ⟨x, y, p, mc, hx, hy, hp, hmc, -, -, hf⟩ := a.operands (by decide) (by decide)
  rw [hx] at hy
  cases hy
  cases hf
  exact ⟨p, mc, x, hp, hmc, hx, rfl⟩

/-- Slot 2 of `AFF1` inverts the square of `Z`: it gets a result only when `Z` is not 0. -/
theorem inverted_ne_zero (a : AtSlot s op dst sa sb v) (hu : s.unit = .aff1) (hk : s.upc = 1) :
    s.regs.r0 ≠ .value 0 ∧ s.regs.z ≠ .value 0 := by
  have hf : slotFields .aff1 1 = some (op, dst, sa, sb) := by rw [← hu, ← hk]; exact a.fields
  cases hf
  obtain ⟨p, mc, z, -, -, hz, hr0⟩ := a.inv.converter_square hu hk
  obtain ⟨x, _, _, _, hx, -, -, -, hport⟩ := microResult_ok.mp a.result
  have hx : s.regs.r0 = .value x := readReg_ok_value (by decide) hx
  have hx0 : x ≠ 0 := by
    rintro rfl
    cases hport
  rw [hr0] at hx
  cases hx
  refine ⟨by simpa [hr0] using hx0, fun h => hx0 ?_⟩
  rw [hz] at h
  cases h
  exact fpMul_zero_left _ _ _ _

/-- Slot 4 of `AFF1` multiplies two values that are not 0. -/
theorem cube_ne_zero (a : AtSlot s op dst sa sb v) (hu : s.unit = .aff1) (hk : s.upc = 3) :
    dst = .r0 ∧ v ≠ 0 := by
  have hf : slotFields .aff1 3 = some (op, dst, sa, sb) := by rw [← hu, ← hk]; exact a.fields
  cases hf
  obtain ⟨hr0, hz⟩ := a.inv.converter_nonzero hu (by omega)
  obtain ⟨x, y, p, mc, hx, hy, hp, -, hxp, hyp, hf⟩ := a.operands (by decide) (by decide)
  obtain ⟨q, -, hq, -, prime, h3, -⟩ := a.modulus
  rw [hp] at hq
  cases hq
  cases hf
  refine ⟨rfl, fpMul_ne_zero _ _ prime h3 hxp hyp ?_ ?_⟩
  · rintro rfl
    exact hz hx
  · rintro rfl
    exact hr0 hy

/-- A slot of `AFF1` after the first writes `R0` at slot 4 only, and `Z` never. -/
theorem aff1_dst {k : Nat} (hk : k < 6) (h1 : 1 ≤ k) (h3 : k ≠ 3) (hf : slotFields .aff1 k = some (op, dst, sa, sb)) :
    dst ≠ .r0 ∧ dst ≠ .z := by
  interval_cases k
  · cases hf; decide
  · cases hf; decide
  · exact absurd rfl h3
  · cases hf; decide
  · cases hf; decide

theorem written_ne_zero (a : AtSlot s op dst sa sb v) (hu : s.unit = .aff1) (hk : 1 ≤ s.upc) :
    (written op dst sa sb v s).regs.get .r0 ≠ .value 0 ∧ (written op dst sa sb v s).regs.get .z ≠ .value 0 := by
  have before : s.regs.get .r0 ≠ .value 0 ∧ s.regs.get .z ≠ .value 0 := by
    by_cases h1 : s.upc = 1
    · exact inverted_ne_zero a hu h1
    · exact a.inv.converter_nonzero hu (by omega)
  rw [written_get _ a.legal, written_get _ a.legal]
  by_cases h3 : s.upc = 3
  · obtain ⟨rfl, hv⟩ := cube_ne_zero a hu h3
    exact ⟨by simpa using hv, by simpa using before.2⟩
  · have hf := a.fields
    have hin := a.inside
    rw [hu] at hf hin
    obtain ⟨h0, hz⟩ := aff1_dst hin hk h3 hf
    rw [if_neg (Ne.symm h0), if_neg (Ne.symm hz)]
    exact before

/-! ## Inside a microprogram -/

theorem Invariant_inside (a : AtSlot s op dst sa sb v) (hk : s.upc + 1 ≠ romLength s.unit) :
    Invariant (setUpc (s.upc + 1) (written op dst sa sb v s)) := by
  have d := DataInRange_written a
  have run := a.running
  have inside := a.inside
  exact {
    params_valid := d.params_valid
    reserved_bit := d.reserved_bit
    dig_wf := d.dig_wf
    dig_bound := d.dig_bound
    regs_fit := d.regs_fit
    p_fits := d.p_fits
    mc_fits := d.mc_fits
    trace_slots := d.trace_slots
    not_injected := d.not_injected
    busy_iff := a.inv.busy_iff
    done_idle := a.inv.done_idle
    valid_idle := a.inv.valid_idle
    modulus_good := a.inv.modulus_good
    unit_serves := a.inv.unit_serves
    cur_digit := a.inv.cur_digit
    len_bound := a.inv.len_bound
    dpos_digit := a.inv.dpos_digit
    dpos_driver := a.inv.dpos_driver
    upc_bound := by
      change if romLength s.unit = 0 then s.upc + 1 = 0 else s.upc + 1 < romLength s.unit
      rw [if_neg (by omega)]
      omega
    slots_held := fun r h1 h => Holds_written_of_touched a h1 h
    scratch_unwritten := fun r hr hu h => written_scratch a hr hu h
    point_holds := fun h r hr => Holds_written a (.inr (a.inv.point_holds h r hr))
    converter_square := fun hu h => written_square a hu (Nat.succ.inj h)
    converter_nonzero := fun hu h => written_ne_zero a hu (Nat.le_of_succ_le_succ h)
    out_written := fun h => by
      change flag .outValid s = true at h
      rw [run.outValid] at h
      cases h }

/-! ## The end of a microprogram (R142) -/

/-- After the last slot every register that the microprogram touches is canonical. -/
theorem Holds_written_last (a : AtSlot s op dst sa sb v) (last : s.upc + 1 = romLength s.unit) {r : Reg} (h1 : r ≠ .one)
    (h : (writtenBefore s.unit (romLength s.unit) r || readBefore s.unit (romLength s.unit) r) = true) :
    Holds (written op dst sa sb v s) r :=
  Holds_written_of_touched a h1 (by rw [last]; exact h)

/-- `ROM.INIT` touches the Point and the addend (R109). -/
theorem init_touches {r : Reg} (h : r.isPoint = true ∨ r = .ax ∨ r = .ay) :
    r ≠ .one ∧ (writtenBefore .init 5 r || readBefore .init 5 r) = true := by
  cases r <;> revert h <;> decide

theorem Invariant_endInit (a : AtSlot s op dst sa sb v) (hu : s.unit = .init) (last : s.upc + 1 = romLength s.unit) :
    Invariant (setUnit .fetch (setDpos 1#16 (setUpc 0 (written op dst sa sb v s)))) := by
  have d := DataInRange_written a
  have run := a.running
  have serves := a.inv.unit_serves
  rw [hu] at serves
  exact Invariant_of_entry {
    data := DataInRange_of_eq d d.reserved_bit rfl
    running := ⟨run.1, run.2, run.3, run.4⟩
    unit := by simp
    upc := rfl
    serves := serves
    cur_digit := by simp [atDigit]
    len_bound := fun _ => a.inv.len_bound (by simp [inDriver, hu])
    dpos_digit := by simp [atDigit]
    dpos_driver := fun _ => ⟨le_rfl, le_max_left _ _⟩
    scratch := by simp [usesScratch]
    point := fun _ r hr => by
      obtain ⟨h1, h⟩ := init_touches hr
      exact Holds_written_last a last h1 (by rw [hu]; exact h) }

/-- Where a primitive runs under a command that is not its own, the command is the driver's (R142). -/
theorem driver_of_primitive (a : AtSlot s op dst sa sb v)
    (hu : (s.unit = .dbl ∧ s.cmdr ≠ 0x01#8) ∨ (s.unit = .add ∧ s.cmdr ≠ 0x02#8)) : driverCommand s.cmdr = true := by
  have serves := a.inv.unit_serves
  obtain ⟨hu, hc⟩ | ⟨hu, hc⟩ := hu <;> simpa [hu, unitServes, hc] using serves

/-- The end of a digit: on to the next fetch (R112, R113). -/
theorem Invariant_endDigit (a : AtSlot s op dst sa sb v) (hu : s.unit = .dbl ∨ s.unit = .add)
    (driver : driverCommand s.cmdr = true) :
    Invariant (setUnit .fetch (setDpos (s.dpos + 1#16) (setUpc 0 (written op dst sa sb v s)))) := by
  have d := DataInRange_written a
  have run := a.running
  have digit : atDigit s = true := by obtain hu | hu := hu <;> simp [atDigit, hu, driver]
  have after : afterInit s = true := by obtain hu | hu := hu <;> simp [afterInit, hu, driver]
  obtain ⟨h1, hlen⟩ := a.inv.dpos_digit digit
  exact Invariant_of_entry {
    data := DataInRange_of_eq d d.reserved_bit rfl
    running := ⟨run.1, run.2, run.3, run.4⟩
    unit := by simp
    upc := rfl
    serves := driver
    cur_digit := by simp [atDigit]
    len_bound := fun _ => a.inv.len_bound (by simp [inDriver, digit])
    dpos_digit := by simp [atDigit]
    dpos_driver := fun _ => by
      change 1 ≤ (s.dpos + 1#16).toNat ∧ (s.dpos + 1#16).toNat ≤ max 1 s.len.toNat
      have : (s.dpos + 1#16).toNat = s.dpos.toNat + 1 := by
        have := s.len.isLt
        rw [BitVec.toNat_add, BitVec.toNat_ofNat]
        omega
      omega
    scratch := by simp [usesScratch]
    point := fun _ r hr => Holds_written a (.inr (a.inv.point_holds after r hr)) }

/-- A digit `'1'`: the addition follows the doubling (R113). -/
theorem Invariant_enterAdd (a : AtSlot s op dst sa sb v) (hu : s.unit = .dbl) (driver : driverCommand s.cmdr = true)
    (hc : s.cur = 0x31#8) : Invariant (enterPrimitive .add (setUpc 0 (written op dst sa sb v s))) := by
  have d := DataInRange_written a
  have run := a.running
  have digit : atDigit s = true := by simp [atDigit, hu, driver]
  exact Invariant_of_entry {
    data := DataInRange_enterPrimitive (DataInRange_of_eq d d.reserved_bit rfl) .add
    running := ⟨run.1, run.2, run.3, run.4⟩
    unit := by simp
    upc := rfl
    serves := by simp [unitServes, written, driver]
    cur_digit := fun _ => .inl hc
    len_bound := fun _ => a.inv.len_bound (by simp [inDriver, digit])
    dpos_digit := fun _ => a.inv.dpos_digit digit
    dpos_driver := by simp
    scratch := fun _ r hr => enterPrimitive_scratch .add _ hr
    point := fun _ r hr => Holds_enterPrimitive .add (isScratch_of_point hr)
      (Holds_written a (.inr (a.inv.point_holds (by simp [afterInit, hu, driver]) r hr))) }

/-- The end of a command's last microprogram, with or without a result to show (R142, R143). -/
theorem Invariant_endCommand (a : AtSlot s op dst sa sb v) :
    Invariant (finish (setUpc 0 (written op dst sa sb v s))) := by
  have d := DataInRange_written a
  refine Invariant_finish (DataInRange_of_eq d d.reserved_bit rfl) fun h => ?_
  change flag .outValid s = true at h
  rw [a.running.outValid] at h
  cases h

/-- The end of the converter: `XA` and `YA` are written (R128). -/
theorem Invariant_endConverter (a : AtSlot s op dst sa sb v) (hu : s.unit = .aff1 ∨ s.unit = .aff0)
    (last : s.upc + 1 = romLength s.unit) (b : Bool) :
    Invariant (finish (setFlag .branch b (setFlag .outValid true (setUpc 0 (written op dst sa sb v s))))) := by
  have d := DataInRange_written a
  have out : ∀ r, r = .xa ∨ r = .ya → (written op dst sa sb v s).regs.get r ≠ .unwritten := fun r hr => by
    have touched : (writtenBefore s.unit (romLength s.unit) r || readBefore s.unit (romLength s.unit) r) = true := by
      obtain hu | hu := hu <;> rw [hu] <;> obtain rfl | rfl := hr <;> decide
    obtain ⟨w, -, hw, -⟩ := Holds_written_last a last (by obtain rfl | rfl := hr <;> decide) touched
    simp [hw]
  refine Invariant_finish (DataInRange_setFlag (DataInRange_setFlag ?_ .outValid true) .branch b)
    fun _ => ⟨out .xa (.inl rfl), out .ya (.inr rfl)⟩
  exact DataInRange_of_eq d d.reserved_bit rfl

theorem Invariant_last (a : AtSlot s op dst sa sb v) (last : s.upc + 1 = romLength s.unit) :
    Invariant (endTransition (setUpc 0 (written op dst sa sb v s))) := by
  have unit : (setUpc 0 (written op dst sa sb v s)).unit = s.unit := rfl
  have cmdr : (setUpc 0 (written op dst sa sb v s)).cmdr = s.cmdr := rfl
  have cur : (setUpc 0 (written op dst sa sb v s)).cur = s.cur := rfl
  have dpos : (setUpc 0 (written op dst sa sb v s)).dpos = s.dpos := rfl
  unfold endTransition
  rw [unit, cmdr, cur, dpos]
  cases hu : s.unit with
  | init => exact Invariant_endInit a hu last
  | dbl =>
    dsimp only
    split_ifs with hc hcur
    · exact Invariant_endCommand a
    · exact Invariant_enterAdd a hu (driver_of_primitive a (.inl ⟨hu, hc⟩)) hcur
    · exact Invariant_endDigit a (.inl hu) (driver_of_primitive a (.inl ⟨hu, hc⟩))
  | add =>
    dsimp only
    split_ifs with hc
    · exact Invariant_endCommand a
    · exact Invariant_endDigit a (.inr hu) (driver_of_primitive a (.inr ⟨hu, hc⟩))
  | aff1 => exact Invariant_endConverter a (.inl hu) last true
  | aff0 => exact Invariant_endConverter a (.inr hu) last false
  | idle | fetch | fin | affsel => exact absurd hu (a.unit_ne rfl)

/-- A micro-operation keeps the invariant. -/
theorem Invariant_retire (a : AtSlot s op dst sa sb v) : Invariant (retire op dst sa sb v s) := by
  rw [retire_eq_advance]
  by_cases last : s.upc + 1 = romLength s.unit
  · rw [advance_last (s := written op dst sa sb v s) last]
    exact Invariant_last a last
  · rw [advance_inside (s := written op dst sa sb v s) last]
    exact Invariant_inside a last

end Slot

/-! ## Every step -/

theorem Invariant_sequencer {s t : State} (h : Invariant s) (k : SequencerKind s t) : Invariant t := by
  cases k with
  | slot op dst sa sb v inside fields legal result result_eq =>
    rw [result_eq]
    exact Invariant_retire ⟨h, inside, fields, legal, result⟩
  | word op dst sa sb v injected => exact absurd h.not_injected injected
  | digit c unit left valid result_eq =>
    rw [result_eq]
    exact Invariant_digit h unit left valid
  | malformed c unit result_eq =>
    rw [result_eq]
    have run := Invariant_running h (by simp [unit])
    refine Invariant_toFin h unit ?_ ⟨?_, ?_, ?_, run.modulus⟩ rfl
    · simpa using h.reserved_bit
    · simpa using run.busy
    · simpa using run.done
    · simpa using run.outValid
  | noDigit unit result_eq =>
    rw [result_eq]
    have run := Invariant_running h (by simp [unit])
    exact Invariant_toFin h unit h.reserved_bit ⟨run.1, run.2, run.3, run.4⟩ rfl
  | fin c unit result_eq =>
    rw [result_eq]
    exact Invariant_afterFin (Invariant_of_eq h rfl) unit
  | select unit result_eq =>
    rw [result_eq]
    exact Invariant_selectStep h unit
  | idle unit result_eq =>
    rw [result_eq]
    exact h

/-- Settles O38: a case split over who takes the step. -/
theorem stepKeepsTheInvariant : Obligations.StepKeepsTheInvariant := by
  intro s t h hstep
  have inputs (is : List Input) : Invariant { s with inputs := is } := Invariant_of_eq h rfl
  cases stepKind_of_next hstep with
  | reset rest _ result_eq =>
    rw [result_eq]
    exact Invariant_resetEvent (inputs rest)
  | reply r rest result_eq =>
    rw [result_eq]
    exact Invariant_of_eq (inputs rest) rfl
  | store r ha v rest reg free writable fits result_eq =>
    rw [result_eq]
    exact Invariant_of_eq (Invariant_hostStore (inputs rest) reg free writable fits) rfl
  | command rest free kind => exact Invariant_command (inputs rest) free kind
  | sequencer is kind => exact Invariant_sequencer (inputs is) kind

end Sys2Proof.Proofs
end

section
/-!
What a step leaves alone: the digit buffer, the reset table, and the registers that only some steps write (R17, R18,
R23 to R28, R36).
-/

namespace Sys2Proof.Proofs

open Sys2Proof.Machine Sys2Proof.Laws

/-! ## The digit buffer and the reset table -/

/-- Settles O35. -/
theorem digitBufferReadsWhatWasWritten : Obligations.DigitBufferReadsWhatWasWritten :=
  fun m _ i b => ⟨fun k => Memory_read_write m i k b, Memory_wf_write i b, Memory_ext⟩

/-- Settles O36. -/
theorem resetGivesTheTable : Obligations.ResetGivesTheTable :=
  ⟨fun _ _ h => step_reset h, rfl, fun _ =>
    ⟨RegFile_unwritten_get, rfl, rfl, Memory_read_nil, rfl, rfl, rfl, rfl, rfl, rfl, rfl, rfl, rfl⟩⟩

/-! ## What the sequencer only reads (O39) -/

/-- The fields that a step of the sequencer leaves alone. -/
def ReadOnlySame (s t : State) : Prop :=
  t.params = s.params ∧ t.regs.ax = s.regs.ax ∧ t.regs.ay = s.regs.ay ∧ t.p = s.p ∧ t.mc = s.mc ∧ t.dig = s.dig ∧
    t.len = s.len ∧ t.inputs = s.inputs ∧ t.reply = s.reply

/-- The transition at the end of a microprogram writes no register but the scratch registers. -/
theorem endTransition_get (s : State) {r : Reg} (h : r.isScratch = false) :
    (endTransition s).regs.get r = s.regs.get r := by
  unfold endTransition
  split <;> (repeat' split) <;> simp [-clearScratch_regs, h]

/-- A micro-operation writes its destination, and no other register but scratch registers. -/
theorem retire_get (op : OpKind) (dst sa : Reg) (sb : Option Reg) (v : Nat) (s : State) {r : Reg}
    (h : r.isScratch = false) (hd : r ≠ dst) : (retire op dst sa sb v s).regs.get r = s.regs.get r := by
  unfold retire advance
  split
  · rw [endTransition_get _ h]
    simp [hd]
  · simp [hd]

theorem readOnlySame_retire (op : OpKind) {dst : Reg} (sa : Reg) (sb : Option Reg) (v : Nat) (s : State)
    (legal : dst.legalDst = true) : ReadOnlySame s (retire op dst sa sb v s) := by
  obtain ⟨params, p, mc, dig, len, -, -, -, -, inputs, reply, -⟩ := retire_frame op dst sa sb v s
  have ax := retire_get op dst sa sb v s (r := .ax) rfl (by rintro rfl; cases legal)
  have ay := retire_get op dst sa sb v s (r := .ay) rfl (by rintro rfl; cases legal)
  exact ⟨params, ax, ay, p, mc, dig, len, inputs, reply⟩

theorem readOnlySame_afterFin (s : State) : ReadOnlySame s (afterFin s) := by
  unfold afterFin
  split <;> simp [ReadOnlySame]

theorem readOnlySame_selectStep (s : State) : ReadOnlySame s (selectStep s) := by
  unfold selectStep
  split_ifs <;> simp [ReadOnlySame]

theorem readOnlySame_of_sequencer {s t : State} (k : SequencerKind s t) : ReadOnlySame s t := by
  cases k with
  | slot op dst sa sb v _ _ legal _ result_eq =>
    rw [result_eq]
    exact readOnlySame_retire op sa sb v s legal
  | word op dst sa sb v _ legal result_eq =>
    rw [result_eq]
    exact readOnlySame_retire op sa sb v { s with injected := none } legal
  | fin c _ result_eq =>
    rw [result_eq]
    exact readOnlySame_afterFin (setLastd c s)
  | select _ result_eq =>
    rw [result_eq]
    exact readOnlySame_selectStep s
  | digit _ _ _ _ result_eq | malformed _ _ result_eq | noDigit _ result_eq | idle _ result_eq =>
    rw [result_eq]
    simp [ReadOnlySame]

/-- A command writes no register that holds a value: it enters its unit (R135). -/
theorem command_frame {s t : State} (k : CommandKind s t) :
    t.params = s.params ∧ t.dpos = s.dpos ∧ t.regs.xa = s.regs.xa ∧ t.regs.ya = s.regs.ya := by
  cases k with
  | primitive _ _ _ _ result_eq | driver _ _ _ result_eq | convert _ result_eq | illegal _ result_eq =>
    rw [result_eq]
    simp

/-- Settles O39. -/
theorem sequencerOnlyReadsItsInputs : Obligations.SequencerOnlyReadsItsInputs := by
  intro s t h
  constructor
  · cases stepKind_of_next h with
    | reset _ _ result_eq | reply _ _ result_eq => rw [result_eq]; rfl
    | store r _ v rest _ _ _ _ result_eq => rw [result_eq]; exact (hostStore_frame r v { s with inputs := rest }).1
    | command _ _ kind => exact (command_frame kind).1
    | sequencer _ kind => exact (readOnlySame_of_sequencer kind).1
  · intro hi
    rw [step_nil hi] at h
    obtain ⟨-, ax, ay, p, mc, dig, len, inputs, reply⟩ := readOnlySame_of_sequencer (sequencerKind_of_next h)
    exact ⟨ax, ay, p, mc, dig, len, inputs.trans hi, reply⟩

/-! ## Who writes the output registers and the digit pointer (O40, O41) -/

/-- The host writes neither `XA`, `YA` nor `DPOS` (R44). -/
theorem hostStore_output {r : HostReg} (v : Nat) (s : State) (writable : hostWritable r = true) :
    (hostStore r v s).dpos = s.dpos ∧ (hostStore r v s).regs.xa = s.regs.xa ∧
      (hostStore r v s).regs.ya = s.regs.ya := by
  cases r with
  | field r => cases r <;> first | exact ⟨rfl, rfl, rfl⟩ | cases writable
  | _ => exact ⟨rfl, rfl, rfl⟩

/-- A step that takes no reset keeps `DPOS`, `XA` and `YA`, or is a step of the sequencer. -/
theorem output_same_or_sequencer {s t : State} (h : step s = .next t) (noReset : ¬ ResetTaken s t) :
    (t.dpos = s.dpos ∧ t.regs.xa = s.regs.xa ∧ t.regs.ya = s.regs.ya) ∨
    ∃ is, SequencerKind { s with inputs := is } t := by
  cases stepKind_of_next h with
  | reset rest mem result_eq => exact absurd (resetTaken_of_reset mem result_eq) noReset
  | reply _ _ result_eq => rw [result_eq]; exact .inl ⟨rfl, rfl, rfl⟩
  | store r _ v rest _ _ writable _ result_eq =>
    rw [result_eq]
    exact .inl (hostStore_output v { s with inputs := rest } writable)
  | command _ _ kind => exact .inl (command_frame kind).2
  | sequencer is kind => exact .inr ⟨is, kind⟩

/-- Of the steps of the sequencer, a micro-operation alone can write `XA`, `YA` or `DPOS`. -/
theorem output_same_or_retire {s t : State} (hinj : s.injected = none) (k : SequencerKind s t) :
    (t.dpos = s.dpos ∧ t.regs.xa = s.regs.xa ∧ t.regs.ya = s.regs.ya) ∨
    ∃ op dst sa sb v, s.upc < romLength s.unit ∧ slotFields s.unit s.upc = some (op, dst, sa, sb) ∧
      t = retire op dst sa sb v s := by
  cases k with
  | slot op dst sa sb v inside fields _ _ result_eq => exact .inr ⟨op, dst, sa, sb, v, inside, fields, result_eq⟩
  | word _ _ _ _ _ injected => exact absurd hinj injected
  | fin c _ result_eq =>
    rw [result_eq]
    unfold afterFin
    split <;> simp
  | select _ result_eq =>
    rw [result_eq]
    unfold selectStep
    split_ifs <;> simp
  | digit _ _ _ _ result_eq | malformed _ _ result_eq | noDigit _ result_eq | idle _ result_eq =>
    rw [result_eq]
    simp

/-- The slots that write the output registers (R125, R126). -/
theorem slotFields_output {u : SeqUnit} {k : Nat} {op : OpKind} {dst sa : Reg} {sb : Option Reg}
    (inside : k < romLength u) (fields : slotFields u k = some (op, dst, sa, sb)) :
    (dst = .xa → (u = .aff1 ∧ k = 2) ∨ (u = .aff0 ∧ k = 1)) ∧
    (dst = .ya → (u = .aff1 ∧ k = 5) ∨ (u = .aff0 ∧ k = 3)) := by
  cases u <;> simp only [romLength] at inside
  case init => interval_cases k <;> cases fields <;> decide
  case dbl => interval_cases k <;> cases fields <;> decide
  case add => interval_cases k <;> cases fields <;> decide
  case aff1 => interval_cases k <;> cases fields <;> decide
  case aff0 => interval_cases k <;> cases fields <;> decide
  all_goals omega

/-- Settles O40. -/
theorem outputIsWrittenByTheConverterOnly : Obligations.OutputIsWrittenByTheConverterOnly := by
  intro s t inv h noReset
  obtain ⟨-, xa, ya⟩ | ⟨is, k⟩ := output_same_or_sequencer h noReset
  · exact ⟨fun hx => absurd xa hx, fun hy => absurd ya hy⟩
  obtain ⟨-, xa, ya⟩ | ⟨op, dst, sa, sb, v, inside, fields, rfl⟩ :=
    output_same_or_retire (s := { s with inputs := is }) inv.not_injected k
  · exact ⟨fun hx => absurd xa hx, fun hy => absurd ya hy⟩
  have only : ∀ r, r.isScratch = false →
      (retire op dst sa sb v { s with inputs := is }).regs.get r ≠ s.regs.get r → dst = r := fun r hr hne => by
    by_contra hd
    exact hne (retire_get op dst sa sb v _ hr (Ne.symm hd))
  obtain ⟨hxa, hya⟩ := slotFields_output inside fields
  exact ⟨fun hx => hxa (only .xa rfl hx), fun hy => hya (only .ya rfl hy)⟩

/-- `DPOS` after the transition at the end of a microprogram (R142). -/
theorem endTransition_dpos (s : State) :
    (endTransition s).dpos = s.dpos ∨ (s.unit = .init ∧ (endTransition s).dpos = 1#16) ∨
    (s.unit = .dbl ∧ s.cmdr ≠ 0x01#8 ∧ s.cur ≠ 0x31#8 ∧ (endTransition s).dpos = s.dpos + 1#16) ∨
    (s.unit = .add ∧ (endTransition s).dpos = s.dpos + 1#16) := by
  unfold endTransition
  cases hu : s.unit with
  | init => simp
  | dbl => by_cases hc : s.cmdr = 0x01#8 <;> by_cases hcur : s.cur = 0x31#8 <;> simp [hc, hcur]
  | add => by_cases hc : s.cmdr = 0x02#8 <;> simp [hc]
  | _ => simp

/-- `DPOS` after a micro-operation: only the last slot's moves it (R110, R112, R113). -/
theorem retire_dpos (op : OpKind) (dst sa : Reg) (sb : Option Reg) (v : Nat) (s : State) :
    let t := retire op dst sa sb v s
    t.dpos = s.dpos ∨ (s.upc + 1 = romLength s.unit ∧
      ((s.unit = .init ∧ t.dpos = 1#16) ∨
       (s.unit = .dbl ∧ s.cmdr ≠ 0x01#8 ∧ s.cur ≠ 0x31#8 ∧ t.dpos = s.dpos + 1#16) ∨
       (s.unit = .add ∧ t.dpos = s.dpos + 1#16))) := by
  intro t
  by_cases last : s.upc + 1 = romLength s.unit
  · have ht : t = endTransition (setUpc 0 (written op dst sa sb v s)) :=
      advance_last (s := written op dst sa sb v s) last
    rw [ht]
    exact (endTransition_dpos (setUpc 0 (written op dst sa sb v s))).imp_right fun h => ⟨last, h⟩
  · have ht : t = setUpc (s.upc + 1) (written op dst sa sb v s) :=
      advance_inside (s := written op dst sa sb v s) last
    rw [ht]
    exact .inl rfl

/-- A digit that is worked on in `DBL` and is not `'1'` is `'0'` (R112). -/
theorem cur_zero_of_dbl {s : State} (inv : Invariant s) (hu : s.unit = .dbl) (hc : s.cmdr ≠ 0x01#8)
    (hcur : s.cur ≠ 0x31#8) : s.cur = 0x30#8 := by
  have driver : driverCommand s.cmdr = true := by simpa [hu, unitServes, hc] using inv.unit_serves
  obtain h | ⟨h, -⟩ := inv.cur_digit (by simp [atDigit, hu, driver])
  · exact absurd h hcur
  · exact h

/-- Settles O41. -/
theorem digitPointerMovesByRule : Obligations.DigitPointerMovesByRule := by
  intro s t inv h noReset
  obtain ⟨dpos, -⟩ | ⟨is, k⟩ := output_same_or_sequencer h noReset
  · exact .inl dpos
  obtain ⟨dpos, -⟩ | ⟨op, dst, sa, sb, v, -, -, rfl⟩ :=
    output_same_or_retire (s := { s with inputs := is }) inv.not_injected k
  · exact .inl dpos
  obtain dpos | ⟨last, ⟨hu, dpos⟩ | ⟨hu, hc, hcur, dpos⟩ | ⟨hu, dpos⟩⟩ :=
    retire_dpos op dst sa sb v { s with inputs := is }
  · exact .inl dpos
  all_goals
    change s.upc + 1 = romLength s.unit at last
    change s.unit = _ at hu
    rw [hu] at last
    have last := Nat.succ.inj last
  · exact .inr (.inl ⟨hu, last, dpos⟩)
  · exact .inr (.inr (.inl ⟨hu, last, cur_zero_of_dbl inv hu hc hcur, dpos⟩))
  · exact .inr (.inr (.inr ⟨hu, last, dpos⟩))

end Sys2Proof.Proofs
end

section
/-!
The scratch registers carry nothing across microprograms (R15, R16): two states that differ in them alone answer alike,
and where one of them enters a microprogram that uses them, both have invalidated them, so that nothing is left to
differ.
-/

namespace Sys2Proof.Proofs

open Sys2Proof.Machine Sys2Proof.Laws

/-! ## Alike states and alike results -/

/-- Two register files agree but for the scratch registers. -/
def SameFile (f g : RegFile) : Prop := ∀ r, r.isScratch = false → g.get r = f.get r

theorem SameFile.set {f g : RegFile} (h : SameFile f g) (r : Reg) (c : Content) : SameFile (f.set r c) (g.set r c) := by
  intro q hq
  simp only [RegFile_get_set, h q hq]

/-- `s` with another register file. -/
def withRegs (g : RegFile) (s : State) : State := { s with regs := g }

@[simp] theorem withRegs_params (g : RegFile) (s : State) : (withRegs g s).params = s.params := rfl
@[simp] theorem withRegs_regs (g : RegFile) (s : State) : (withRegs g s).regs = g := rfl
@[simp] theorem withRegs_len (g : RegFile) (s : State) : (withRegs g s).len = s.len := rfl
@[simp] theorem withRegs_dpos (g : RegFile) (s : State) : (withRegs g s).dpos = s.dpos := rfl
@[simp] theorem withRegs_lastd (g : RegFile) (s : State) : (withRegs g s).lastd = s.lastd := rfl
@[simp] theorem withRegs_inputs (g : RegFile) (s : State) : (withRegs g s).inputs = s.inputs := rfl
@[simp] theorem isBusy_withRegs (g : RegFile) (s : State) : isBusy (withRegs g s) = isBusy s := rfl
@[simp] theorem readDigit_withRegs (i : Nat) (g : RegFile) (s : State) :
    readDigit i (withRegs g s) = readDigit i s := rfl

/-- The sequencer is outside the microprograms that use the scratch registers, with no injected word, and `g` differs
from the register file in those registers alone. -/
structure Outside (g : RegFile) (s : State) : Prop where
  unit : usesScratch s.unit = false
  injected : s.injected = none
  same : SameFile s.regs g

/-- The simulation relation: equal, or different in the scratch registers where nothing reads them. -/
def Related (s s' : State) : Prop := s = s' ∨ ∃ g, s' = withRegs g s ∧ Outside g s

/-- Two results are alike: related states, or the same fault. -/
inductive Alike : Result → Result → Prop
  | next {t t' : State} (related : Related t t') : Alike (.next t) (.next t')
  | fault (f : Fault) : Alike (.fault f) (.fault f)
  | refused (r : Refusal) : Alike (.refused r) (.refused r)

theorem Alike.refl : ∀ r : Result, Alike r r
  | .next _ => .next (.inl rfl)
  | .fault f => .fault f
  | .refused r => .refused r

theorem Alike.of_outside {g : RegFile} {t : State} (o : Outside g t) : Alike (.next t) (.next (withRegs g t)) :=
  .next (.inr ⟨g, rfl, o⟩)

theorem Related.sameButScratch {s s' : State} (h : Related s s') : SameButScratch s s' := by
  obtain rfl | ⟨g, rfl, o⟩ := h
  · exact ⟨rfl, fun _ _ => rfl⟩
  · exact ⟨rfl, o.same⟩

theorem related_of_sameButScratch {s s' : State} (unit : usesScratch s.unit = false) (injected : s.injected = none)
    (h : SameButScratch s s') : Related s s' :=
  .inr ⟨s'.regs, h.1, unit, injected, h.2⟩

/-- The invalidation at the entry of a primitive leaves no difference (R16). -/
theorem enterPrimitive_withRegs {g : RegFile} {s : State} (same : SameFile s.regs g) (u : SeqUnit) :
    enterPrimitive u (withRegs g s) = enterPrimitive u s := by
  have regs : (clearScratch (withRegs g s)).regs = (clearScratch s).regs := by
    apply RegFile_ext
    intro r
    rw [clearScratch_get, clearScratch_get]
    cases hr : r.isScratch with
    | true => rfl
    | false => exact same r hr
  calc enterPrimitive u (withRegs g s)
      = withRegs (clearScratch (withRegs g s)).regs (enterPrimitive u s) := rfl
    _ = enterPrimitive u s := by rw [regs]; rfl

theorem Alike.enterPrimitive {g : RegFile} {s : State} (same : SameFile s.regs g) (u : SeqUnit) :
    Alike (.next (enterPrimitive u s)) (.next (enterPrimitive u (withRegs g s))) := by
  rw [enterPrimitive_withRegs same]
  exact .refl _

section Steps
variable {g : RegFile} {s : State}

/-! ## Updates that keep the sequencer outside -/

theorem Outside.setInputs (o : Outside g s) (is : List Input) : Outside g { s with inputs := is } :=
  ⟨o.unit, o.injected, o.same⟩

theorem Outside.answer (o : Outside g s) (r : Reply) : Outside g (answer r s) := ⟨o.unit, o.injected, o.same⟩

theorem Outside.setUnit {u : SeqUnit} (o : Outside g s) (hu : usesScratch u = false) : Outside g (setUnit u s) :=
  ⟨hu, o.injected, o.same⟩

theorem Outside.setUpc (o : Outside g s) (n : Nat) : Outside g (setUpc n s) := ⟨o.unit, o.injected, o.same⟩

theorem Outside.setCur (o : Outside g s) (c : Symbol) : Outside g (setCur c s) := ⟨o.unit, o.injected, o.same⟩

theorem Outside.setLastd (o : Outside g s) (c : Symbol) : Outside g (setLastd c s) := ⟨o.unit, o.injected, o.same⟩

theorem Outside.setFlag (o : Outside g s) (f : Flag) (b : Bool) : Outside g (setFlag f b s) :=
  ⟨by simpa using o.unit, by simpa using o.injected, by simpa using o.same⟩

theorem Outside.takeCommand (o : Outside g s) (c : Code) : Outside g (takeCommand c s) :=
  ⟨by simpa using o.unit, by simpa using o.injected, by simpa using o.same⟩

theorem Outside.finish (o : Outside g s) : Outside g (finish s) :=
  ⟨rfl, by simpa using o.injected, by simpa using o.same⟩

/-! ## The host's transactions -/

/-- A read answers alike: no scratch register is mapped (R44). -/
theorem hostRead_reply (same : SameFile s.regs g) (ha : Nat) :
    (hostRead ha (withRegs g s)).reply = (hostRead ha s).reply := by
  have value : ∀ r, hostReg s.params ha = some r → hostValue r (withRegs g s) = hostValue r s := by
    intro r hr
    cases r with
    | field q => exact congrArg Content.shown (same q (hostReg_field hr).2)
    | _ => rfl
  unfold hostRead
  rw [withRegs_params]
  cases hr : hostReg s.params ha with
  | none => rfl
  | some r =>
    dsimp only
    rw [isBusy_withRegs, value r hr]
    split
    · rfl
    · cases hostValue r s <;> rfl

theorem Alike.hostRead (o : Outside g s) (ha : Nat) :
    Alike (.next (hostRead ha s)) (.next (hostRead ha (withRegs g s))) := by
  rw [hostRead_eq ha s, hostRead_eq ha (withRegs g s), hostRead_reply o.same]
  exact .of_outside (o.answer _)

theorem hostStore_withRegs (same : SameFile s.regs g) (r : HostReg) (v : Nat) :
    ∃ g', SameFile (hostStore r v s).regs g' ∧ hostStore r v (withRegs g s) = withRegs g' (hostStore r v s) := by
  cases r with
  | field q => exact ⟨g.set q (.value v), same.set q _, rfl⟩
  | _ => exact ⟨g, same, rfl⟩

theorem Alike.hostWrite (o : Outside g s) (ha v : Nat) :
    Alike (.next (hostWrite ha v s)) (.next (hostWrite ha v (withRegs g s))) := by
  have legal : hostWriteLegal ha v (withRegs g s) = hostWriteLegal ha v s := rfl
  have refused : Alike (.next (refuse s)) (.next (refuse (withRegs g s))) :=
    .of_outside (o.answer .refused)
  unfold Machine.hostWrite
  rw [legal, withRegs_params]
  cases hostWriteLegal ha v s with
  | false => exact refused
  | true =>
    cases hostReg s.params ha with
    | none => exact refused
    | some r =>
      obtain ⟨g', same', hs⟩ := hostStore_withRegs o.same r v
      obtain ⟨-, -, -, hu, -, -, -, -, -, -, hi⟩ := hostStore_frame r v s
      simp only [hs, if_true]
      exact .of_outside (t := answer .done (hostStore r v s))
        ⟨by simpa [hu] using o.unit, by simpa [hi] using o.injected, same'⟩

/-! ## The commands -/

/-- The accept step reads `P`, `MC` and `LEN` alone, and then enters a unit. -/
theorem Alike.accept (o : Outside g s) {c : Code} {check : State → Option Fault} {enter : State → State}
    (checks : check (takeCommand c (withRegs g s)) = check (takeCommand c s))
    (enters : Alike (.next (enter (setFlag .busy true (takeCommand c s))))
      (.next (enter (withRegs g (setFlag .busy true (takeCommand c s)))))) :
    Alike (accept c check enter s) (accept c check enter (withRegs g s)) := by
  unfold Machine.accept
  rw [isBusy_withRegs, checks]
  cases isBusy s with
  | true => exact .of_outside (o.answer .refused)
  | false =>
    cases check (takeCommand c s) with
    | some f => exact .fault f
    | none => exact enters

theorem Alike.execCmdIllegal (o : Outside g s) (c : Code) :
    Alike (execCmdIllegal c s) (execCmdIllegal c (withRegs g s)) := by
  unfold Machine.execCmdIllegal
  rw [isBusy_withRegs]
  cases isBusy s with
  | true => exact .of_outside (o.answer .refused)
  | false => exact .of_outside (((o.takeCommand c).setFlag .errCmd true).setFlag .done true)

theorem checkModulus_withRegs (c : Code) (g : RegFile) (s : State) :
    checkModulus (takeCommand c (withRegs g s)) = checkModulus (takeCommand c s) := rfl

theorem checkDriver_withRegs (c : Code) (g : RegFile) (s : State) :
    checkDriver (takeCommand c (withRegs g s)) = checkDriver (takeCommand c s) := by
  unfold checkDriver
  rw [checkModulus_withRegs]
  rfl

theorem Alike.command (o : Outside g s) (c : Code) :
    Alike (exec (decodeCommand c) s) (exec (decodeCommand c) (withRegs g s)) := by
  have primitive : ∀ (c : Code) (u : SeqUnit), Alike (Machine.accept c checkModulus (Machine.enterPrimitive u) s)
      (Machine.accept c checkModulus (Machine.enterPrimitive u) (withRegs g s)) := fun c u =>
    .accept o (checkModulus_withRegs c g s) (.enterPrimitive ((o.takeCommand c).setFlag .busy true).same u)
  have driver : ∀ c : Code, Alike (Machine.accept c checkDriver (fun t => setUpc 0 (setUnit .init t)) s)
      (Machine.accept c checkDriver (fun t => setUpc 0 (setUnit .init t)) (withRegs g s)) := fun c =>
    .accept o (checkDriver_withRegs c g s)
      (.of_outside ((((o.takeCommand c).setFlag .busy true).setUnit rfl).setUpc 0))
  obtain hc | hc | hc | hc | hc | hc := decodeCommand_cases c <;> rw [hc]
  · exact primitive 0x01#8 .dbl
  · exact primitive 0x02#8 .add
  · exact driver 0x03#8
  · exact .accept o (checkModulus_withRegs 0x04#8 g s)
      (.of_outside (((o.takeCommand 0x04#8).setFlag .busy true).setUnit rfl))
  · exact driver 0x05#8
  · exact .execCmdIllegal o c

/-! ## The sequencer's steps outside the microprograms that use the scratch registers -/

/-- The words of `ROM.INIT` have one source each, and it is no scratch register (R109). -/
theorem init_noScratch {k : Nat} {op : OpKind} {dst sa : Reg} {sb : Option Reg} (hk : k < 5)
    (hf : slotFields .init k = some (op, dst, sa, sb)) : sa.isScratch = false ∧ sb = none := by
  interval_cases k <;> cases hf <;> decide

/-- A one-source micro-operation reads nothing but its source, `P` and `MC`. -/
theorem microResult_one {op : OpKind} {sa : Reg} (h : g.get sa = s.regs.get sa) :
    microResult op sa none (withRegs g s) = microResult op sa none s := by
  have value : registerValue sa (withRegs g s) = registerValue sa s := by
    by_cases h1 : sa = .one
    · subst h1; rfl
    · rw [registerValue_of_ne_one h1, registerValue_of_ne_one h1]
      rw [withRegs_regs, h]
  have read : readReg sa (withRegs g s) = readReg sa s := by
    unfold readReg
    rw [value]
    rfl
  unfold microResult
  rw [read]
  rfl

theorem endTransition_init {t : State} (hu : t.unit = .init) :
    endTransition t = setUnit .fetch (setDpos 1#16 t) := by
  simp only [endTransition, hu]

/-- A slot of `INIT` retires alike: its end is the first fetch (R110). -/
theorem Alike.retire_init (o : Outside g s) (hu : s.unit = .init) (op : OpKind) (dst sa : Reg) (sb : Option Reg)
    (v : Nat) :
    Alike (.next (retire op dst sa sb v s)) (.next (retire op dst sa sb v (withRegs g s))) := by
  have same' := o.same.set dst (.value v)
  by_cases last : s.upc + 1 = romLength s.unit
  · rw [retire_eq_advance, retire_eq_advance, advance_last (s := written op dst sa sb v s) last,
      advance_last (s := written op dst sa sb v (withRegs g s)) last,
      endTransition_init (t := setUpc 0 (written op dst sa sb v s)) hu,
      endTransition_init (t := setUpc 0 (written op dst sa sb v (withRegs g s))) hu]
    exact .of_outside (t := setUnit .fetch (setDpos 1#16 (setUpc 0 (written op dst sa sb v s))))
      ⟨rfl, o.injected, same'⟩
  · rw [retire_eq_advance, retire_eq_advance, advance_inside (s := written op dst sa sb v s) last,
      advance_inside (s := written op dst sa sb v (withRegs g s)) last]
    exact .of_outside (t := setUpc (s.upc + 1) (written op dst sa sb v s))
      ⟨by simp [written, hu, usesScratch], o.injected, same'⟩

theorem Alike.init (o : Outside g s) (hu : s.unit = .init) :
    Alike (sequencerStep s) (sequencerStep (withRegs g s)) := by
  by_cases hk : s.upc < romLength s.unit
  · obtain ⟨op, dst, sa, sb, hf, hd, -⟩ := slotFields_of_lt hk
    rw [sequencerStep_slot o.injected hk hf, sequencerStep_slot (s := withRegs g s) o.injected hk hf]
    rw [hu] at hk hf
    obtain ⟨hsa, rfl⟩ := init_noScratch hk hf
    unfold microStep
    rw [microResult_one (o.same sa hsa), if_pos hd, if_pos hd]
    cases microResult op sa none s with
    | error f => exact .fault f
    | ok v => exact .retire_init o hu op dst sa none v
  · have hk := Nat.le_of_not_lt hk
    have hr : romLength s.unit ≠ 0 := by simp [hu, romLength]
    rw [sequencerStep_noWord o.injected hr hk, sequencerStep_noWord (s := withRegs g s) o.injected hr hk]
    exact .fault _

theorem Alike.fetch (o : Outside g s) (hu : s.unit = .fetch) :
    Alike (sequencerStep s) (sequencerStep (withRegs g s)) := by
  rw [sequencerStep_fetch hu, sequencerStep_fetch (s := withRegs g s) hu]
  by_cases hl : s.dpos.toNat < s.len.toNat
  · have hl' : (withRegs g s).dpos.toNat < (withRegs g s).len.toNat := hl
    rw [if_pos hl, if_pos hl', withRegs_dpos, readDigit_withRegs]
    cases readDigit s.dpos.toNat s with
    | error f => exact .fault f
    | ok c =>
      simp only [decodeSymbol]
      split_ifs
      · exact .enterPrimitive (s := setCur 0x30#8 s) o.same .dbl
      · exact .enterPrimitive (s := setCur 0x31#8 s) o.same .dbl
      · exact .of_outside (((o.setCur c).setFlag .errDigit true).setUnit rfl)
  · have hl' : ¬ (withRegs g s).dpos.toNat < (withRegs g s).len.toNat := hl
    rw [if_neg hl, if_neg hl']
    exact .of_outside (o.setUnit rfl)

theorem Alike.afterFin (o : Outside g s) : Alike (.next (afterFin s)) (.next (afterFin (withRegs g s))) := by
  by_cases hc : s.cmdr = 0x05#8 ∧ (flag .errDigit s = false ∨ s.params.policy = .normalizePartial)
  · rw [afterFin_converter hc.1 hc.2, afterFin_converter (s := withRegs g s) hc.1 hc.2]
    exact .of_outside (o.setUnit rfl)
  · rw [afterFin_finish hc, afterFin_finish (s := withRegs g s) hc]
    exact .of_outside o.finish

theorem Alike.finStep (o : Outside g s) : Alike (finStep s) (finStep (withRegs g s)) := by
  unfold Machine.finStep
  by_cases hl : s.len = 0#16
  · rw [if_pos hl, if_pos (c := (withRegs g s).len = 0#16) hl]
    exact .afterFin (o.setLastd 0x00#8)
  · rw [if_neg hl, if_neg (c := (withRegs g s).len = 0#16) hl, withRegs_len, readDigit_withRegs]
    cases readDigit (s.len.toNat - 1) s with
    | error f => exact .fault f
    | ok c => exact .afterFin (o.setLastd c)

theorem Alike.selectStep (o : Outside g s) : Alike (.next (selectStep s)) (.next (selectStep (withRegs g s))) := by
  unfold Machine.selectStep
  rw [withRegs_lastd]
  split_ifs
  · exact .enterPrimitive o.same .aff1
  · exact .enterPrimitive o.same .aff0
  · exact .of_outside (o.setFlag .errNorm true).finish

/-- The sequencer's step, unit by unit. -/
theorem Alike.sequencer (o : Outside g s) : Alike (sequencerStep s) (sequencerStep (withRegs g s)) := by
  cases hu : s.unit with
  | idle =>
    rw [sequencerStep_idle hu, sequencerStep_idle (s := withRegs g s) hu]
    exact .of_outside o
  | init => exact .init o hu
  | fetch => exact .fetch o hu
  | fin =>
    rw [sequencerStep_fin hu, sequencerStep_fin (s := withRegs g s) hu]
    exact .finStep o
  | affsel =>
    rw [sequencerStep_affsel hu, sequencerStep_affsel (s := withRegs g s) hu]
    exact .selectStep o
  | dbl | add | aff1 | aff0 => simpa [hu, usesScratch] using o.unit

/-! ## The step and the run -/

/-- The exit from a fault is by what the host asks, and the reset leaves no difference (R170). -/
theorem Alike.faultExit {r r' : Result} (h : Alike r r') :
    Alike (faultExit s r) (faultExit (withRegs g s) r') := by
  cases h with
  | next related => exact .next related
  | refused e => exact .refused e
  | fault f =>
    unfold Machine.faultExit
    simp only [withRegs_inputs]
    cases afterReset s.inputs with
    | none => exact .fault f
    | some rest => exact .refl _

end Steps

theorem Alike.step {s s' : State} (h : Related s s') : Alike (step s) (step s') := by
  obtain rfl | ⟨g, rfl, o⟩ := h
  · exact .refl _
  cases hi : s.inputs with
  | nil =>
    rw [step_nil hi, step_nil (s := withRegs g s) hi]
    exact .sequencer o
  | cons i rest =>
    cases i with
    | tick =>
      rw [step_tick hi, step_tick (s := withRegs g s) hi]
      exact .faultExit (.sequencer (o.setInputs rest))
    | waitDone =>
      cases hd : flag .done s with
      | false =>
        rw [step_wait hi hd, step_wait (s := withRegs g s) hi hd]
        exact .faultExit (.sequencer o)
      | true =>
        rw [step_wait_over hi hd, step_wait_over (s := withRegs g s) hi hd]
        exact .of_outside ((o.setInputs rest).answer _)
    | reset =>
      rw [step_reset hi, step_reset (s := withRegs g s) hi]
      exact .refl _
    | read ha =>
      rw [step_read hi, step_read (s := withRegs g s) hi]
      exact .hostRead (o.setInputs rest) ha
    | write ha v =>
      by_cases hc : ha = 0x0000 ∧ hostWriteLegal ha v s = true
      · obtain ⟨rfl, hl⟩ := hc
        rw [step_command hi hl, step_command (s := withRegs g s) hi hl]
        exact .faultExit (.command (o.setInputs rest) _)
      · rw [step_write hi hc, step_write (s := withRegs g s) hi hc]
        exact .hostWrite (o.setInputs rest) ha v

theorem run_zero (s : State) : run 0 s = .next s := rfl

theorem run_succ (k : Nat) (s : State) :
    run (k + 1) s = match step s with
      | .next t => run k t
      | .fault f => .fault f
      | .refused r => .refused r := by
  have h : core.step s = step s := rfl
  simp only [run, Host.Core.run, h]
  cases step s <;> rfl

/-- Related states run alike, however long and whatever the host asks. -/
theorem Alike.run (k : Nat) : ∀ {s s' : State}, Related s s' → Alike (run k s) (run k s') := by
  induction k with
  | zero => exact fun h => .next h
  | succ k ih =>
    intro s s' h
    have hs := Alike.step h
    rw [run_succ, run_succ]
    generalize Machine.step s = r at hs ⊢
    generalize Machine.step s' = r' at hs ⊢
    cases hs with
    | next related => exact ih related
    | fault f => exact .fault f
    | refused e => exact .refused e

/-- Settles O46, by induction on the number of steps. -/
theorem scratchRegistersCarryNothing : Obligations.ScratchRegistersCarryNothing := by
  intro k s s' unit injected same
  have alike := Alike.run k (related_of_sameButScratch unit injected same)
  generalize Machine.run k s = r at alike ⊢
  generalize Machine.run k s' = r' at alike ⊢
  cases alike with
  | @next t t' related =>
    refine ⟨fun u h => ?_, fun f h => by cases h⟩
    cases h
    exact ⟨t', rfl, related.sameButScratch⟩
  | fault f => exact ⟨fun u h => (by cases h), fun f h => h⟩
  | refused e => exact ⟨fun u h => (by cases h), fun f h => (by cases h)⟩

end Sys2Proof.Proofs
end

section
/-!
The host register space and the host's transactions, busy and not (R44 to R46, R50, R51, R163), and the step as the run
of the instruction it decodes (R142).
-/

namespace Sys2Proof.Proofs

open Sys2Proof.Machine Sys2Proof.Laws

/-! ## The map (R44) -/

/-- The registers of R44 but for `DIG`, in the order of the map. -/
def mapped : List (Nat × HostReg) :=
  [(0x0000, .cmd), (0x0001, .status), (0x0002, .len), (0x0003, .dpos), (0x0004, .lastd), (0x0010, .field .x),
   (0x0011, .field .y), (0x0012, .field .z), (0x0013, .field .z2), (0x0014, .field .z3), (0x001A, .field .ax),
   (0x001B, .field .ay), (0x001C, .field .xa), (0x001D, .field .ya), (0x0020, .p), (0x0021, .mc)]

theorem hostReg_of_mapped (c : Params) {ha : Nat} {r : HostReg} (h : (ha, r) ∈ mapped) : hostReg c ha = some r := by
  have listed : ∀ q ∈ mapped, hostReg c q.1 = some q.2 := by
    simp only [mapped, List.forall_mem_cons]
    exact ⟨rfl, rfl, rfl, rfl, rfl, rfl, rfl, rfl, rfl, rfl, rfl, rfl, rfl, rfl, rfl, rfl, List.forall_mem_nil _⟩
  exact listed _ h

/-- What the map shows is what its registers hold. -/
theorem hostTable_eq (s : State) : hostTable s = mapped.map fun q => (q.1, hostValue q.2 s) := rfl

theorem hostReg_digit {c : Params} {j : Nat} (h : j < c.ndig) : hostReg c (0x1000 + j) = some (.dig j) := by
  unfold hostReg
  repeat rw [if_neg (by omega)]
  rw [if_pos (by omega), Nat.add_sub_cancel_left]

/-- Among the indices of `FREG` the map leaves out the scratch registers, `ONE` and entry 15. -/
theorem hostField_gap {k : Nat} (h : (5 ≤ k ∧ k ≤ 9) ∨ 14 ≤ k) : hostField k = none := by
  unfold hostField
  split
  case h_10 => rfl
  all_goals omega

theorem hostReg_unmapped {c : Params} {ha : Nat} (h : unmapped c ha) : hostReg c ha = none := by
  unfold unmapped at h
  unfold hostReg
  repeat rw [if_neg (by omega)]
  split
  · exact hostField_gap (by omega)
  · exact if_neg (by omega)

/-! ## Reads (R45, R46, R50, R51) -/

theorem hostRead_mapped {ha : Nat} {s : State} {r : HostReg} (reg : hostReg s.params ha = some r)
    (free : flag .busy s = false) : hostRead ha s = answer (replyOf (hostValue r s)) s := by
  unfold hostRead
  rw [reg]
  cases hv : hostValue r s <;> simp [free, hv, replyOf, refuse]

theorem hostRead_unmapped {ha : Nat} {s : State} (h : unmapped s.params ha) : hostRead ha s = answer .refused s := by
  unfold hostRead
  rw [hostReg_unmapped h]
  rfl

/-- `STATUS` is read busy or not (R45). -/
theorem hostRead_status (s : State) : hostRead 0x0001 s = answer (.value s.status.toNat) s := by
  have reg : hostReg s.params 0x0001 = some .status := rfl
  unfold hostRead
  rw [reg]
  simp [hostValue]

/-- Settles O31. -/
theorem hostReadsFollowTheMap : Obligations.HostReadsFollowTheMap := by
  intro s ha rest hi free
  rw [step_read hi]
  refine ⟨fun v shown => ?_, fun j hj below => ?_, fun h => ?_⟩
  · rw [hostTable_eq] at shown
    obtain ⟨⟨ha', r⟩, listed, heq⟩ := List.mem_map.mp shown
    cases heq
    exact congrArg _ (hostRead_mapped (hostReg_of_mapped s.params listed) free)
  · subst hj
    exact congrArg _ (hostRead_mapped (s := { s with inputs := rest }) (hostReg_digit below) free)
  · exact congrArg _ (hostRead_unmapped h)

/-! ## Writes (R44, R46, R163) -/

theorem hostWriteLegal_iff {ha v : Nat} {s : State} :
    hostWriteLegal ha v s = true ↔
      ∃ r, hostReg s.params ha = some r ∧ flag .busy s = false ∧ hostWritable r = true ∧
        v < 2 ^ hostWidth s.params r := by
  unfold hostWriteLegal
  cases hostReg s.params ha <;> simp [and_assoc]

/-- A legal write to a register other than `CMD` stores its value. -/
theorem step_store {s : State} {ha v : Nat} {rest : List Input} {r : HostReg} (hi : s.inputs = .write ha v :: rest)
    (free : flag .busy s = false) (reg : hostReg s.params ha = some r) (notCmd : r ≠ .cmd)
    (writable : hostWritable r = true) (fits : v < 2 ^ hostWidth s.params r) :
    step s = .next (answer .done (hostStore r v { s with inputs := rest })) := by
  have legal : hostWriteLegal ha v { s with inputs := rest } = true :=
    hostWriteLegal_iff.mpr ⟨r, reg, free, writable, fits⟩
  have notCommand : ¬ (ha = 0x0000 ∧ hostWriteLegal ha v s = true) := by
    rintro ⟨hz, -⟩
    rw [hostReg_cmd.mpr hz] at reg
    exact notCmd (Option.some.inj reg).symm
  rw [step_write hi notCommand, hostWrite, if_pos legal, reg]

/-- A write that is not legal is refused. -/
theorem step_refused {s : State} {ha v : Nat} {rest : List Input} (hi : s.inputs = .write ha v :: rest)
    (illegal : ¬ hostWriteLegal ha v s = true) : step s = .next { s with inputs := rest, reply := .refused } := by
  rw [step_write hi (fun h => illegal h.2), hostWrite]
  exact congrArg _ (if_neg illegal)

/-- Settles O32. -/
theorem hostWritesFollowTheMap : Obligations.HostWritesFollowTheMap := by
  intro s ha v rest hi free
  refine ⟨?_, ?_, fun fits => ⟨fun r hr => ?_, ?_, ?_⟩, ?_⟩
  · rintro rfl fits
    exact step_store hi free rfl (by decide) rfl fits
  · rintro rfl fits
    exact step_store hi free rfl (by decide) rfl fits
  · have writable : (ha, HostReg.field r) ∈ mapped ∧ hostWritable (.field r) = true := by
      simp only [List.mem_cons, Prod.mk.injEq, List.not_mem_nil, or_false] at hr
      obtain ⟨rfl, rfl⟩ | ⟨rfl, rfl⟩ | ⟨rfl, rfl⟩ | ⟨rfl, rfl⟩ | ⟨rfl, rfl⟩ | ⟨rfl, rfl⟩ | ⟨rfl, rfl⟩ := hr <;> decide
    exact step_store hi free (hostReg_of_mapped s.params writable.1) nofun writable.2 fits
  · rintro rfl
    exact step_store hi free rfl (by decide) rfl fits
  · rintro rfl
    exact step_store hi free rfl (by decide) rfl fits
  · rintro j rfl below fits
    exact step_store hi free (hostReg_digit below) nofun rfl fits

/-- Settles O33: a legal write names a writable register that its value fits, and each clause denies one of these. -/
theorem forbiddenWritesAreRefused : Obligations.ForbiddenWritesAreRefused := by
  intro s ha v rest hi free forbidden
  refine step_refused hi fun legal => ?_
  obtain ⟨r, reg, -, writable, fits⟩ := hostWriteLegal_iff.mp legal
  simp only [List.mem_cons, List.not_mem_nil, or_false] at forbidden
  obtain readOnly | gap | ⟨at8, wide⟩ | ⟨at16, wide⟩ | ⟨atW, wide⟩ | ⟨low, below, wide⟩ := forbidden
  · obtain rfl | rfl | rfl | rfl := readOnly <;> cases reg <;> cases writable
  · rw [hostReg_unmapped gap] at reg
    cases reg
  · obtain rfl | rfl := at8 <;> cases reg <;> exact Nat.not_lt.mpr wide fits
  · subst at16
    cases reg
    exact Nat.not_lt.mpr wide fits
  · obtain rfl | rfl | rfl | rfl | rfl | rfl | rfl | rfl | rfl := atW <;> cases reg <;> exact Nat.not_lt.mpr wide fits
  · obtain ⟨j, rfl⟩ := Nat.exists_eq_add_of_le low
    rw [hostReg_digit (by omega)] at reg
    cases reg
    exact Nat.not_lt.mpr wide fits

/-! ## The busy core (R45, R163) -/

/-- Settles O34. -/
theorem busyCoreAnswersStatusOnly : Obligations.BusyCoreAnswersStatusOnly := by
  intro s ha v rest busy
  refine ⟨fun hi => ?_, fun hi notStatus => ?_, fun hi => step_refused hi fun legal => ?_⟩
  · rw [step_read hi, hostRead_status]
    rfl
  · rw [step_read hi]
    exact congrArg _ (hostRead_busy (s := { s with inputs := rest }) busy notStatus)
  · obtain ⟨r, -, free, -, -⟩ := hostWriteLegal_iff.mp legal
    rw [busy] at free
    cases free

/-- Settles O24. -/
theorem commandsWhileBusyAreRefused : Obligations.CommandsWhileBusyAreRefused := by
  intro s i c hi busy
  have refused : ∀ {code check enter}, accept code check enter s = .next (answer .refused s) :=
    accept_next.mpr (.inl ⟨busy, rfl⟩)
  simp only [List.mem_cons, List.not_mem_nil, or_false] at hi
  obtain rfl | rfl | rfl | rfl | rfl | rfl := hi
  · exact refused
  · exact refused
  · rw [exec_cmdSmul, execCmdSmul]
    exact refused
  · exact refused
  · rw [exec_cmdKp, execCmdKp]
    exact refused
  · exact execCmdIllegal_next.mpr (.inl ⟨busy, rfl⟩)

/-! ## The step and the instruction it decodes (R43, R111, R135, R142) -/

theorem step_item {s t : State} {it : Item} {i : Instr} (h : nextItem s = some (it, t)) (hd : decode it = .ok i) :
    step s = faultExit s (exec i t) := by
  rw [step, attempt_item h hd]

theorem faultExit_noReset {s : State} (h : Input.reset ∉ s.inputs) (r : Result) : faultExit s r = r :=
  faultExit_of_none (afterReset_eq_none.mpr h) r

/-- At a slot of its ROM the sequencer runs that slot's row (R43, R77). -/
theorem sequencerStep_row {s : State} {i : Instr} (hinj : s.injected = none) (row : romRow s.unit s.upc = some i) :
    sequencerStep s = exec i s := by
  have inside : s.upc < romLength s.unit := by
    rw [← romRows_length]
    exact (List.getElem?_eq_some_iff.mp row).1
  obtain ⟨w, hw⟩ := Option.isSome_iff_exists.mp (romWord_isSome.mpr inside)
  simp [sequencerStep, sequencerItem_slot hinj hw, decode_slot hw row]

/-- Settles O30: who takes the step is `nextItem`, and the exit from a fault is `faultExit`. -/
theorem stepRunsTheDecodedInstruction : Obligations.StepRunsTheDecodedInstruction := by
  refine ⟨fun s t it i item hd => ⟨fun u hu => ?_, fun noReset => ?_, fun f before rest fault inputs noReset => ?_⟩,
    fun s i rest hinj row noReset => ⟨fun hi => ?_, fun hi => ?_, fun hi notDone => ?_⟩,
    fun s c hi hu left below symbol => ?_, fun s v rest hi noReset free fits => ?_, fun s hu hi => ?_⟩
  · rw [step_item item hd, hu, faultExit_next]
  · rw [step_item item hd, faultExit_noReset noReset]
  · rw [step_item item hd, fault, faultExit_of_some (afterReset_eq_some.mpr ⟨before, noReset, inputs⟩)]
    rfl
  · rw [step_nil hi, sequencerStep_row hinj row]
  · rw [step_tick hi, faultExit_noReset (by simpa [hi] using noReset)]
    exact sequencerStep_row hinj row
  · rw [step_wait hi notDone, faultExit_noReset (by simpa [hi] using noReset), sequencerStep_row hinj row]
  · rw [step_nil hi, sequencerStep_fetch hu, if_pos left, readDigit_ok.mpr ⟨below, symbol⟩]
  · rw [step_command hi (hostWriteLegal_cmd.mpr ⟨free, fits⟩), faultExit_noReset (by simpa [hi] using noReset)]
  · rw [step_nil hi, sequencerStep_idle hu]

end Sys2Proof.Proofs
end

section
/-!
The decoders and the encoder (`30_encoding.md`): each undoes the other on the well-formed items, a word is legal by its
fields exactly when it decodes to a micro-operation (R60), and what the machine does with a word that is not (R61).
-/

namespace Sys2Proof.Proofs

open Sys2Proof.Machine Sys2Proof.Laws

/-! ## Decoding what the encoder writes (R56 to R69) -/

/-- Settles O2. The rows with operands are the laws of their own; a ROM row is read back at its slot, and the commands
and the digits are fixed codes. -/
theorem decodeInvertsEncode : Obligations.DecodeInvertsEncode := by
  intro i wf
  cases i with
  | fmul dst sa sb => exact DecodeEncode.fmul dst sa sb wf
  | fadd dst sa sb => exact DecodeEncode.fadd dst sa sb wf
  | fsub dst sa sb => exact DecodeEncode.fsub dst sa sb wf
  | fcpy dst sa => exact DecodeEncode.fcpy dst sa wf
  | finv dst sa => exact DecodeEncode.finv dst sa wf
  | reservedOp word => exact DecodeEncode.reservedOp word wf
  | cmdIllegal code => exact DecodeEncode.cmdIllegal code wf
  | symMalformed symbol => exact DecodeEncode.symMalformed symbol wf
  | romInit1 | romInit2 | romInit3 | romInit4 | romInit5 => exact decode_slot rfl rfl
  | romDbl1 | romDbl2 | romDbl3 | romDbl4 | romDbl5 | romDbl6 | romDbl7 | romDbl8 | romDbl9 | romDbl10 | romDbl11
  | romDbl12 | romDbl13 | romDbl14 | romDbl15 | romDbl16 | romDbl17 | romDbl18 | romDbl19 | romDbl20 | romDbl21 =>
    exact decode_slot rfl rfl
  | romAdd1 | romAdd2 | romAdd3 | romAdd4 | romAdd5 | romAdd6 | romAdd7 | romAdd8 | romAdd9 | romAdd10 | romAdd11
  | romAdd12 | romAdd13 | romAdd14 | romAdd15 | romAdd16 | romAdd17 | romAdd18 | romAdd19 | romAdd20 | romAdd21 =>
    exact decode_slot rfl rfl
  | romAffOne1 | romAffOne2 | romAffOne3 | romAffOne4 | romAffOne5 | romAffOne6 => exact decode_slot rfl rfl
  | romAffZero1 | romAffZero2 | romAffZero3 | romAffZero4 => exact decode_slot rfl rfl
  | cmdDbl | cmdAdd | cmdSmul | cmdAff | cmdKp => rfl
  | symZero | symOne => rfl

/-- Settles O4: the codes and symbols outside the two tables are the well-formed operands of their catch-all rows. -/
theorem commandAndSymbolCodesDecode : Obligations.CommandAndSymbolCodesDecode := by
  refine ⟨rfl, rfl, rfl, rfl, rfl, fun c outside => ?_, rfl, rfl, fun c notZero notOne => ?_⟩
  · exact Except.ok.inj (decodeInvertsEncode (.cmdIllegal c) (by simpa [wellFormed] using outside))
  · exact Except.ok.inj (decodeInvertsEncode (.symMalformed c) (by simp [wellFormed, notZero, notOne]))

/-! ## The fields of a word (R57, R59) -/

theorem dstField_toNat (w : MicroWord) : (dstField w).toNat = w.toNat / 256 % 16 := by
  simp [dstField, BitVec.extractLsb'_toNat, Nat.shiftRight_eq_div_pow]

theorem saField_toNat (w : MicroWord) : (saField w).toNat = w.toNat / 16 % 16 := by
  simp [saField, BitVec.extractLsb'_toNat, Nat.shiftRight_eq_div_pow]

theorem sbField_toNat (w : MicroWord) : (sbField w).toNat = w.toNat % 16 := by
  simp [sbField, BitVec.extractLsb'_toNat]

/-- A word is its four fields. -/
theorem joinFields_fields (w : MicroWord) : joinFields (opField w) (dstField w) (saField w) (sbField w) = w := by
  apply BitVec.eq_of_toNat_eq
  rw [joinFields_toNat, opField_toNat, dstField_toNat, saField_toNat, sbField_toNat]
  omega

theorem regOfIndex_eq_some {f : BitVec 4} {r : Reg} : regOfIndex f = some r ↔ regIndex r = f := by
  constructor
  · intro h
    have inverse : ∀ f : BitVec 4, ∀ r ∈ regOfIndex f, regIndex r = f := by decide
    exact inverse f r h
  · rintro rfl
    exact regOfIndex_regIndex r

/-- The values of a register field that name a register: all but 15 (R20). -/
theorem exists_regIndex {f : BitVec 4} : (∃ r, regIndex r = f) ↔ f.toNat ≤ 14 := by
  have named : ∀ f : BitVec 4, (regOfIndex f).isSome = true ↔ f.toNat ≤ 14 := by decide
  simp only [← named, Option.isSome_iff_exists, regOfIndex_eq_some]

theorem legalDst_iff (r : Reg) :
    r.legalDst = true ↔ (regIndex r).toNat ≤ 9 ∨ (regIndex r).toNat = 12 ∨ (regIndex r).toNat = 13 := by
  cases r <;> decide

/-- The values of a destination field that name a legal destination (R60). -/
theorem exists_legalDst {f : BitVec 4} :
    (∃ r, r.legalDst = true ∧ regIndex r = f) ↔ f.toNat ≤ 9 ∨ f.toNat = 12 ∨ f.toNat = 13 := by
  constructor
  · rintro ⟨r, legal, rfl⟩
    exact (legalDst_iff r).mp legal
  · intro h
    obtain ⟨r, rfl⟩ := exists_regIndex.mpr (show f.toNat ≤ 14 by omega)
    exact ⟨r, (legalDst_iff r).mpr h, rfl⟩

/-- Legality (R60) by the registers that the fields name. -/
theorem legalWord_iff_fields {w : MicroWord} :
    legalWord w ↔ 1 ≤ w.toNat / 4096 ∧ w.toNat / 4096 ≤ 5 ∧ (∃ dst, dst.legalDst = true ∧ regIndex dst = dstField w) ∧
      (∃ sa, regIndex sa = saField w) ∧
      if w.toNat / 4096 ≤ 3 then ∃ sb, regIndex sb = sbField w else sbField w = 0#4 := by
  rw [exists_legalDst, exists_regIndex, exists_regIndex, ← BitVec.toNat_inj, dstField_toNat, saField_toNat, sbField_toNat]
  exact Iff.rfl

/-! ## The decoder of micro-operation words (R57 to R61) -/

theorem decodeDst_ok {w : MicroWord} {dst : Reg} :
    decodeDst w = .ok dst ↔ dst.legalDst = true ∧ regIndex dst = dstField w := by
  rw [← regOfIndex_eq_some]
  unfold decodeDst
  cases regOfIndex (dstField w) with
  | none => simp
  | some r =>
    by_cases legal : r.legalDst = true
    · simp only [legal, if_true, Except.ok.injEq, Option.some.injEq]
      exact ⟨fun h => ⟨h ▸ legal, h⟩, fun h => h.2⟩
    · simp only [legal, if_false, reduceCtorEq, Option.some.injEq, false_iff]
      exact fun h => legal (h.2 ▸ h.1)

theorem decodeDst_error {w : MicroWord} {e : DecodeError} (h : decodeDst w = .error e) : e.theWord = w := by
  unfold decodeDst at h
  repeat' split at h
  all_goals cases h
  all_goals rfl

section Operands
variable {w : MicroWord} {i : Instr} {e : DecodeError} {two : Reg → Reg → Reg → Instr} {one : Reg → Reg → Instr}

theorem decodeTwo_ok :
    decodeTwo w two = .ok i ↔ ∃ dst sa sb, (dst.legalDst = true ∧ regIndex dst = dstField w) ∧
      regIndex sa = saField w ∧ regIndex sb = sbField w ∧ i = two dst sa sb := by
  constructor
  · intro h
    unfold decodeTwo at h
    split at h
    · cases h
    · rename_i dst hd
      split at h
      · rename_i sa sb ha hb
        cases h
        exact ⟨dst, sa, sb, decodeDst_ok.mp hd, regOfIndex_eq_some.mp ha, regOfIndex_eq_some.mp hb, rfl⟩
      · cases h
  · rintro ⟨dst, sa, sb, hd, ha, hb, rfl⟩
    simp [decodeTwo, decodeDst_ok.mpr hd, regOfIndex_eq_some.mpr ha, regOfIndex_eq_some.mpr hb]

theorem decodeOne_ok :
    decodeOne w one = .ok i ↔ ∃ dst sa, (dst.legalDst = true ∧ regIndex dst = dstField w) ∧
      regIndex sa = saField w ∧ sbField w = 0#4 ∧ i = one dst sa := by
  constructor
  · intro h
    unfold decodeOne at h
    split at h
    · cases h
    · rename_i dst hd
      split at h
      · cases h
      · rename_i sa ha
        split_ifs at h with hb
        cases h
        exact ⟨dst, sa, decodeDst_ok.mp hd, regOfIndex_eq_some.mp ha, hb, rfl⟩
  · rintro ⟨dst, sa, hd, ha, hb, rfl⟩
    simp [decodeOne, decodeDst_ok.mpr hd, regOfIndex_eq_some.mpr ha, hb]

theorem decodeTwo_error (h : decodeTwo w two = .error e) : e.theWord = w := by
  unfold decodeTwo at h
  split at h
  · rename_i hd
    cases h
    exact decodeDst_error hd
  · split at h <;> cases h
    rfl

theorem decodeOne_error (h : decodeOne w one = .error e) : e.theWord = w := by
  unfold decodeOne at h
  split at h
  · rename_i hd
    cases h
    exact decodeDst_error hd
  · repeat' split at h
    all_goals cases h
    all_goals rfl

end Operands

/-- What a micro-operation's fields say of its encoding (R57, R60). -/
theorem encode_of_microFields {i : Instr} {k : OpKind} {dst sa : Reg} {sb : Option Reg}
    (fields : microFields i = some (k, dst, sa, sb)) :
    encode i = .word (microWord k dst sa sb) ∧ wellFormed i = dst.legalDst := by
  cases i <;> cases fields <;> exact ⟨rfl, rfl⟩

theorem wellFormed_reservedOp {w : MicroWord} :
    wellFormed (.reservedOp w) = true ↔ w.toNat / 4096 = 0 ∨ 6 ≤ w.toNat / 4096 := by
  simp [wellFormed, reservedOpField]

theorem decodeMicro_reserved {w : MicroWord} (range : w.toNat / 4096 = 0 ∨ 6 ≤ w.toNat / 4096) :
    decodeMicro w = .ok (.reservedOp w) :=
  decodeInvertsEncode (.reservedOp w) (wellFormed_reservedOp.mpr range)

/-- All that the decoder does with a word, by its `OP` (R58, R61). -/
inductive MicroDecoding (w : MicroWord) : Prop
  /-- `FMUL`, `FADD`, `FSUB`. -/
  | two (k : OpKind) (make : Reg → Reg → Reg → Instr) (op : opField w = opCode k)
      (range : 1 ≤ w.toNat / 4096 ∧ w.toNat / 4096 ≤ 3) (decoded : decodeMicro w = decodeTwo w make)
      (fields : ∀ dst sa sb, microFields (make dst sa sb) = some (k, dst, sa, some sb))
  /-- `FCPY`, `FINV`. -/
  | one (k : OpKind) (make : Reg → Reg → Instr) (op : opField w = opCode k)
      (range : 4 ≤ w.toNat / 4096 ∧ w.toNat / 4096 ≤ 5) (decoded : decodeMicro w = decodeOne w make)
      (fields : ∀ dst sa, microFields (make dst sa) = some (k, dst, sa, none))
  /-- A reserved `OP`. -/
  | reserved (range : w.toNat / 4096 = 0 ∨ 6 ≤ w.toNat / 4096) (decoded : decodeMicro w = .ok (.reservedOp w))

theorem microDecoding (w : MicroWord) : MicroDecoding w := by
  have named : ∀ k : OpKind, w.toNat / 4096 = (opCode k).toNat → opField w = opCode k := fun k h =>
    BitVec.eq_of_toNat_eq (by rw [opField_toNat, h])
  by_cases reserved : w.toNat / 4096 = 0 ∨ 6 ≤ w.toNat / 4096
  · exact .reserved reserved (decodeMicro_reserved reserved)
  · obtain h | h | h | h | h : w.toNat / 4096 = 1 ∨ w.toNat / 4096 = 2 ∨ w.toNat / 4096 = 3 ∨ w.toNat / 4096 = 4 ∨
        w.toNat / 4096 = 5 := by omega
    · exact .two .mul .fmul (named .mul h) (by omega) (by simp [decodeMicro, opField_toNat, h]) fun _ _ _ => rfl
    · exact .two .add .fadd (named .add h) (by omega) (by simp [decodeMicro, opField_toNat, h]) fun _ _ _ => rfl
    · exact .two .sub .fsub (named .sub h) (by omega) (by simp [decodeMicro, opField_toNat, h]) fun _ _ _ => rfl
    · exact .one .copy .fcpy (named .copy h) (by omega) (by simp [decodeMicro, opField_toNat, h]) fun _ _ => rfl
    · exact .one .inv .finv (named .inv h) (by omega) (by simp [decodeMicro, opField_toNat, h]) fun _ _ => rfl

/-- An error of the decoder is about the word it was given. -/
theorem decodeMicro_error {w : MicroWord} {e : DecodeError} (h : decodeMicro w = .error e) : e.theWord = w := by
  cases microDecoding w with
  | two k make op range decoded fields => exact decodeTwo_error (decoded ▸ h)
  | one k make op range decoded fields => exact decodeOne_error (decoded ▸ h)
  | reserved range decoded => rw [decoded] at h; cases h

/-- The encoder writes back the word that was decoded. -/
theorem encode_of_decodeMicro {w : MicroWord} {i : Instr} (h : decodeMicro w = .ok i) :
    wellFormed i = true ∧ encode i = .word w := by
  cases microDecoding w with
  | two k make op range decoded fields =>
    obtain ⟨dst, sa, sb, ⟨legal, hd⟩, ha, hb, rfl⟩ := decodeTwo_ok.mp (decoded ▸ h)
    obtain ⟨henc, hwf⟩ := encode_of_microFields (fields dst sa sb)
    rw [henc, hwf, microWord, ← op, hd, ha, hb, joinFields_fields]
    exact ⟨legal, rfl⟩
  | one k make op range decoded fields =>
    obtain ⟨dst, sa, ⟨legal, hd⟩, ha, hb, rfl⟩ := decodeOne_ok.mp (decoded ▸ h)
    obtain ⟨henc, hwf⟩ := encode_of_microFields (fields dst sa)
    rw [henc, hwf, microWord, ← op, hd, ha, ← hb, joinFields_fields]
    exact ⟨legal, rfl⟩
  | reserved range decoded =>
    rw [decoded] at h
    cases h
    exact ⟨wellFormed_reservedOp.mpr range, rfl⟩

/-- A word is legal by its fields (R60) exactly when it decodes to a micro-operation. -/
theorem legalWord_iff {w : MicroWord} :
    legalWord w ↔ ∃ i, decodeMicro w = .ok i ∧ (microFields i).isSome = true := by
  rw [legalWord_iff_fields]
  cases microDecoding w with
  | two k make op range decoded fields =>
    rw [decoded, if_pos range.2]
    constructor
    · rintro ⟨-, -, ⟨dst, hd⟩, ⟨sa, ha⟩, ⟨sb, hb⟩⟩
      exact ⟨make dst sa sb, decodeTwo_ok.mpr ⟨dst, sa, sb, hd, ha, hb, rfl⟩, by rw [fields]; rfl⟩
    · rintro ⟨i, hi, -⟩
      obtain ⟨dst, sa, sb, hd, ha, hb, -⟩ := decodeTwo_ok.mp hi
      exact ⟨range.1, by omega, ⟨dst, hd⟩, ⟨sa, ha⟩, ⟨sb, hb⟩⟩
  | one k make op range decoded fields =>
    rw [decoded, if_neg (by omega)]
    constructor
    · rintro ⟨-, -, ⟨dst, hd⟩, ⟨sa, ha⟩, hb⟩
      exact ⟨make dst sa, decodeOne_ok.mpr ⟨dst, sa, hd, ha, hb, rfl⟩, by rw [fields]; rfl⟩
    · rintro ⟨i, hi, -⟩
      obtain ⟨dst, sa, hd, ha, hb, -⟩ := decodeOne_ok.mp hi
      exact ⟨by omega, range.2, ⟨dst, hd⟩, ⟨sa, ha⟩, hb⟩
  | reserved range decoded =>
    constructor
    · rintro ⟨low, high, -⟩
      omega
    · rintro ⟨i, hi, micro⟩
      rw [decoded] at hi
      cases hi
      cases micro

/-- An `OP` that names an operation decodes, if at all, to a micro-operation. -/
theorem microFields_of_decodeMicro {w : MicroWord} {i : Instr} (low : 1 ≤ w.toNat / 4096) (high : w.toNat / 4096 ≤ 5)
    (h : decodeMicro w = .ok i) : (microFields i).isSome = true := by
  cases microDecoding w with
  | two k make op range decoded fields =>
    obtain ⟨dst, sa, sb, -, -, -, rfl⟩ := decodeTwo_ok.mp (decoded ▸ h)
    rw [fields]; rfl
  | one k make op range decoded fields =>
    obtain ⟨dst, sa, -, -, -, rfl⟩ := decodeOne_ok.mp (decoded ▸ h)
    rw [fields]; rfl
  | reserved range decoded => omega

/-- An `OP` that names an operation, in a word that is not legal, is rejected with the word (R60, R61). -/
theorem decodeMicro_illegal {w : MicroWord} (illegal : ¬ legalWord w) (low : 1 ≤ w.toNat / 4096)
    (high : w.toNat / 4096 ≤ 5) : ∃ e, decodeMicro w = .error e ∧ e.theWord = w := by
  cases hd : decodeMicro w with
  | error e => exact ⟨e, rfl, decodeMicro_error hd⟩
  | ok i => exact absurd (legalWord_iff.mpr ⟨i, hd, microFields_of_decodeMicro low high hd⟩) illegal

/-- Settles O3. That no other item encodes to the word is that decoding gives the item back. -/
theorem everyMicroWordHasOneReading : Obligations.EveryMicroWordHasOneReading := by
  refine fun w => ⟨fun legal => ?_, fun _ => decodeMicro_reserved, decodeMicro_illegal⟩
  obtain ⟨i, hi, micro⟩ := legalWord_iff.mp legal
  obtain ⟨wf, henc⟩ := encode_of_decodeMicro hi
  refine ⟨i, hi, wf, micro, henc, fun j wfj hj => ?_⟩
  have decoded : decodeMicro w = .ok j := by simpa [hj, decode] using decodeInvertsEncode j wfj
  exact Except.ok.inj (decoded.symm.trans hi)

/-! ## What the machine does with an illegal word (R61, R161) -/

/-- Presented to the decoder, a word that is not legal ends the step in `IllegalMicroOp`. -/
theorem sequencerStep_illegal {s : State} {w : MicroWord} (illegal : ¬ legalWord w) (injected : s.injected = some w)
    (rom : romLength s.unit ≠ 0) : sequencerStep s = .fault (.illegalMicroOp w) := by
  rw [sequencerStep_word injected rom]
  by_cases range : w.toNat / 4096 = 0 ∨ 6 ≤ w.toNat / 4096
  · rw [decodeMicro_reserved range]
    exact exec_reservedOp _ w
  · obtain ⟨e, rejected, rfl⟩ := decodeMicro_illegal illegal (by omega) (by omega)
    rw [rejected]

/-- The words of the ROMs are legal (R62). -/
theorem legalWord_of_romWord {u : SeqUnit} {k : Nat} {w : MicroWord} (hw : romWord u k = some w) : legalWord w := by
  have inside : k < romLength u := romWord_isSome.mp (by simp [hw])
  obtain ⟨op, dst, sa, sb, fields, -, -⟩ := slotFields_of_lt inside
  cases hd : decodeMicro w with
  | error e => simp [slotFields, hw, hd] at fields
  | ok i =>
    simp only [slotFields, hw, hd] at fields
    exact legalWord_iff.mpr ⟨i, hd, by rw [fields]; rfl⟩

/-- Settles O17. -/
theorem illegalWordsFault : Obligations.IllegalWordsFault := by
  refine ⟨fun w s => exec_reservedOp s w, fun w s illegal quiet injected rom => ?_, fun _ _ _ => legalWord_of_romWord⟩
  rw [step_nil quiet, sequencerStep_illegal illegal injected rom]

/-! ## The shape of the two primitives (R65) -/

/-- Settles O6: three comparisons of the two listings, slot by slot. -/
theorem primitivesHaveOneShape : Obligations.PrimitivesHaveOneShape := by
  refine ⟨?shapes, ?bytes, ?events⟩
  case shapes => decide
  case bytes => rfl
  case events => rfl

end Sys2Proof.Proofs
end

section
/-!
The field-arithmetic provider (`40_field_ops.md`): the laws of R86 follow from those of the prime field, because
`fieldOf` is injective on canonical values; and the formulas that R84 and R85 write out for their two instances.
-/

namespace Sys2Proof.Proofs

open Sys2Proof.Machine Sys2Proof.Laws

/-! ## The provider's functions by their formulas (R79, R80, R84, R85) -/

theorem fpSub_eq_mod {p a b : Nat} (ha : a < p) (hb : b < p) : fpSub p a b = (a + p - b) % p := by
  unfold fpSub
  split
  · rw [Nat.mod_eq_of_lt (by omega)]
  · rw [Nat.mod_eq_sub_mod (by omega), Nat.mod_eq_of_lt (by omega)]
    omega

/-- The difference as the integers have it (R80). -/
theorem fpSub_eq_emod {p a b : Nat} (ha : a < p) (hb : b < p) :
    fpSub p a b = (((a : ℤ) - (b : ℤ)) % (p : ℤ)).toNat := by
  have shifted : ((a : ℤ) - b) % p = ((a + p - b : ℕ) : ℤ) % p := by
    rw [Nat.cast_sub (by omega), Nat.cast_add, add_sub_right_comm, Int.add_emod_right]
  rw [fpSub_eq_mod ha hb, shifted, ← Int.natCast_mod, Int.toNat_natCast]

theorem fpMul_reference {c : Params} (hc : c.provider = .reference) (p mc a b : Nat) :
    fpMul c p mc a b = a * b % p := by simp [fpMul, hc]

theorem fpInv_reference {c : Params} (hc : c.provider = .reference) (p a : Nat) :
    fpInv c p a = a ^ (p - 2) % p := by simp [fpInv, hc, plainInv, powMod_eq]

theorem fpOne_reference {c : Params} (hc : c.provider = .reference) (p mc : Nat) : fpOne c p mc = 1 := by
  simp [fpOne, fpBase, hc]

theorem fpOne_montgomery {c : Params} (hc : c.provider = .montgomery) (p mc : Nat) :
    fpOne c p mc = 2 ^ c.w % p := by simp [fpOne, fpBase, hc]

/-! ## The laws of R86 -/

theorem fpAdd_comm (p a b : Nat) : fpAdd p a b = fpAdd p b a := by
  rw [fpAdd, fpAdd, Nat.add_comm]

theorem fpAdd_assoc {p a b d : Nat} (ha : a < p) (hb : b < p) (hd : d < p) :
    fpAdd p (fpAdd p a b) d = fpAdd p a (fpAdd p b d) := by
  rw [fpAdd_eq_mod (fpAdd_lt ha hb) hd, fpAdd_eq_mod ha (fpAdd_lt hb hd), fpAdd_eq_mod ha hb, fpAdd_eq_mod hb hd,
    Nat.mod_add_mod, Nat.add_mod_mod, Nat.add_assoc]

theorem fpAdd_zero {p a : Nat} (ha : a < p) : fpAdd p a 0 = a := by
  rw [fpAdd_eq_mod ha (by omega), Nat.add_zero, Nat.mod_eq_of_lt ha]

theorem fpSub_eq_fpAdd_neg {p a b : Nat} (ha : a < p) (hb : b < p) : fpSub p a b = fpAdd p a (fpSub p 0 b) := by
  rw [fpAdd_eq_mod ha (fpSub_lt (by omega) hb), fpSub_eq_mod ha hb, fpSub_eq_mod (by omega) hb, Nat.add_mod_mod]
  congr 1
  omega

theorem fpMul_comm (c : Params) (p mc a b : Nat) : fpMul c p mc a b = fpMul c p mc b a := by
  unfold fpMul
  rw [Nat.mul_comm]

theorem fpMul_zero (c : Params) (p mc a : Nat) : fpMul c p mc a 0 = 0 := by
  rw [fpMul_comm, fpMul_zero_left]

section FieldLaws
variable (c : Params) {p : Nat} (mc : Nat) [Fact p.Prime] (h3 : 3 < p) {a b d : Nat}
include h3

theorem fpMul_assoc (a b d : Nat) : fpMul c p mc (fpMul c p mc a b) d = fpMul c p mc a (fpMul c p mc b d) := by
  apply fieldOf_injective c mc h3 (fpMul_lt _ _ _ _ (by omega)) (fpMul_lt _ _ _ _ (by omega))
  simp only [fieldOf_mul c mc h3, mul_assoc]

theorem fpMul_fpAdd (a : Nat) (hb : b < p) (hd : d < p) :
    fpMul c p mc a (fpAdd p b d) = fpAdd p (fpMul c p mc a b) (fpMul c p mc a d) := by
  have canonical : ∀ x, fpMul c p mc a x < p := fun x => fpMul_lt _ _ _ _ (by omega)
  apply fieldOf_injective c mc h3 (canonical _) (fpAdd_lt (canonical b) (canonical d))
  rw [fieldOf_add c mc (canonical b) (canonical d)]
  simp only [fieldOf_mul c mc h3, fieldOf_add c mc hb hd, mul_add]

theorem fpMul_fpSub (a b : Nat) (hd : d < p) :
    fpMul c p mc a (fpSub p b d) = fpSub p (fpMul c p mc a b) (fpMul c p mc a d) := by
  have canonical : ∀ x, fpMul c p mc a x < p := fun x => fpMul_lt _ _ _ _ (by omega)
  apply fieldOf_injective c mc h3 (canonical _) (fpSub_lt (canonical b) (canonical d))
  rw [fieldOf_sub c mc (canonical d)]
  simp only [fieldOf_mul c mc h3, fieldOf_sub c mc hd, mul_sub]

theorem fpMul_fpOne (ha : a < p) : fpMul c p mc a (fpOne c p mc) = a := by
  apply fieldOf_injective c mc h3 (fpMul_lt _ _ _ _ (by omega)) ha
  rw [fieldOf_mul c mc h3, fieldOf_one c mc h3, mul_one]

theorem fpMul_fpInv (ha : a < p) (ha0 : a ≠ 0) : fpMul c p mc a (fpInv c p a) = fpOne c p mc := by
  apply fieldOf_injective c mc h3 (fpMul_lt _ _ _ _ (by omega)) (fpOne_lt c mc (by omega))
  have nonzero : fieldOf c p mc a ≠ 0 := (fieldOf_eq_zero c mc h3 ha).not.mpr ha0
  rw [fieldOf_mul c mc h3, fieldOf_inv c mc h3, fieldOf_one c mc h3, mul_inv_cancel₀ nonzero]

/-- Zero is no inverse: its product with any value is 0, and `FP.one` is not. -/
theorem fpInv_ne_zero (ha : a < p) (ha0 : a ≠ 0) : fpInv c p a ≠ 0 := by
  intro h
  have product := fpMul_fpInv c 0 h3 ha ha0
  rw [h, fpMul_zero] at product
  exact fpOne_ne_zero c 0 h3 (by rw [← product, Nat.cast_zero])

/-- The canonical value that represents a field element. -/
theorem exists_fieldOf_eq (e : ZMod p) : ∃ v, v < p ∧ fieldOf c p mc v = e := by
  refine ⟨(e * fpOne c p mc).val, ZMod.val_lt _, ?_⟩
  rw [fieldOf, ZMod.natCast_zmod_val, mul_inv_cancel_right₀ (fpOne_ne_zero c mc h3)]

/-- A Montgomery product loses one factor `R = 2^W` (R85). -/
theorem fpMul_montgomery (hc : c.provider = .montgomery) (a b : Nat) :
    fpMul c p mc a b * 2 ^ c.w % p = a * b % p := by
  have one : (fpOne c p mc : ZMod p) = 2 ^ c.w := by rw [fpOne_montgomery hc, ZMod.natCast_mod]; push_cast; rfl
  rw [← ZMod.natCast_eq_natCast_iff']
  push_cast
  rw [fpMul_cast c mc h3, ← one, inv_mul_cancel_right₀ (fpOne_ne_zero c mc h3)]

/-- A Montgomery inverse gains two factors `R = 2^W` (R85). -/
theorem fpInv_montgomery (hc : c.provider = .montgomery) (ha : a < p) (ha0 : a ≠ 0) :
    fpInv c p a * a % p = 2 ^ c.w * 2 ^ c.w % p := by
  have one : (fpOne c p 0 : ZMod p) = 2 ^ c.w := by rw [fpOne_montgomery hc, ZMod.natCast_mod]; push_cast; rfl
  have nonzero : (a : ZMod p) ≠ 0 := fun h =>
    ha0 (Nat.eq_zero_of_dvd_of_lt ((ZMod.natCast_eq_zero_iff a p).mp h) ha)
  rw [← ZMod.natCast_eq_natCast_iff']
  push_cast
  rw [fpInv_cast c 0 h3, one]
  field_simp

end FieldLaws

/-- Settles O8. -/
theorem providerIsAField : Obligations.ProviderIsAField := by
  intro c p mc good a b d ha hb hd
  obtain ⟨prime, h3, -⟩ := (goodModulus_iff _ _).mp good
  have := Fact.mk prime
  have hp : 0 < p := by omega
  refine ⟨fpMul_lt c mc a b hp, fpAdd_lt ha hb, fpSub_lt ha hb, fpOne_lt c mc (by omega), fpMul_comm c p mc a b,
    fpMul_assoc c mc h3 a b d, fpMul_fpAdd c mc h3 a hb hd, fpMul_fpSub c mc h3 a b hd, fpAdd_comm p a b,
    fpAdd_assoc ha hb hd, fpAdd_zero ha, fpSub_eq_fpAdd_neg ha hb, fpMul_zero c p mc a, fpMul_fpOne c mc h3 ha,
    fun ha0 => ?inverse, rfl⟩
  case inverse =>
    exact ⟨Nat.one_le_iff_ne_zero.mpr (fpInv_ne_zero c h3 ha ha0), fpInv_lt c a hp, fpMul_fpInv c mc h3 ha ha0⟩

/-- Settles O9. -/
theorem providerRepresentsTheField : Obligations.ProviderRepresentsTheField := by
  intro c p mc good
  obtain ⟨prime, h3, -⟩ := (goodModulus_iff _ _).mp good
  have := Fact.mk prime
  refine ⟨fun e => ?represented, fieldOf_one c mc h3, fun a b ha hb => ?operations⟩
  case represented =>
    obtain ⟨v, hv, rfl⟩ := exists_fieldOf_eq c mc h3 e
    exact ⟨v, hv, rfl, fun v' hv' => fieldOf_injective c mc h3 hv' hv⟩
  case operations =>
    exact ⟨fieldOf_mul c mc h3 a b, fieldOf_add c mc ha hb, fieldOf_sub c mc hb, fun _ => fieldOf_inv c mc h3 a⟩

/-- Settles O10. -/
theorem referenceAndMontgomeryInstances : Obligations.ReferenceAndMontgomeryInstances := by
  intro c p mc a b good ha hb
  obtain ⟨prime, h3, -⟩ := (goodModulus_iff _ _).mp good
  have := Fact.mk prime
  have hp : 0 < p := by omega
  refine ⟨fun hc => ?reference, fun hc => ?montgomery, fpAdd_eq_mod ha hb, fpSub_eq_mod ha hb⟩
  case reference =>
    exact ⟨fpOne_reference hc p mc, fpMul_reference hc p mc a b, fun _ => fpInv_reference hc p a⟩
  case montgomery =>
    exact ⟨fpOne_montgomery hc p mc, fpMul_lt c mc a b hp, fpMul_montgomery c mc h3 hc a b,
      fun ha0 => ⟨fpInv_lt c a hp, fpInv_montgomery c h3 hc ha ha0⟩⟩

end Sys2Proof.Proofs
end

section
/-!
The five micro-operations and the rows of the ROMs (`40_field_ops.md`): on readable operands a micro-operation gets the
result R78 to R82 give, and what it leaves is `slotDone` at the place where it runs, inside a microprogram and at its
end.
-/

namespace Sys2Proof.Proofs

open Sys2Proof.Machine Sys2Proof.Laws

/-! ## The transition at the end of a microprogram (R142, R143) -/

/-- The `STATUS` byte of a finish. -/
theorem finish_status_eq (st : BitVec 8) :
    putFlag (putFlag st .busy false) .done true = (st &&& 0xFE#8) ||| 0x02#8 := by
  refine status_ext (by simp) fun f => ?_
  rw [getFlag_putFlag, getFlag_putFlag]
  cases f <;> simp [getFlag, flagBit]

/-- The `STATUS` byte of the finish of `AFF1` (R125). -/
theorem aff1_status_eq (st : BitVec 8) :
    putFlag (putFlag (putFlag (putFlag st .outValid true) .branch true) .busy false) .done true =
      (st &&& 0xFE#8) ||| 0x62#8 := by
  refine status_ext (by simp) fun f => ?_
  simp only [getFlag_putFlag]
  cases f <;> simp [getFlag, flagBit]

/-- The `STATUS` byte of the finish of `AFF0` (R126). -/
theorem aff0_status_eq (st : BitVec 8) :
    putFlag (putFlag (putFlag (putFlag st .outValid true) .branch false) .busy false) .done true =
      (st &&& 0xBE#8) ||| 0x22#8 := by
  refine status_ext (by simp) fun f => ?_
  simp only [getFlag_putFlag]
  cases f <;> simp [getFlag, flagBit]

/-- A finish with its `STATUS` byte written out (R143). -/
theorem finish_eq (s : State) : finish s = { s with
    unit := .idle, upc := 0, status := putFlag (putFlag s.status .busy false) .done true } := rfl

/-- The machine's transition is the table of R142. -/
theorem endTransition_eq (s : State) : endTransition { s with upc := 0 } = microprogramEnd { s with upc := 0 } := by
  unfold endTransition microprogramEnd
  cases s.unit with
  | dbl => simp only [finish_eq, finish_status_eq]; rfl
  | add => simp only [finish_eq, finish_status_eq]; rfl
  | aff1 => simp only [finish_eq, setFlag_status, aff1_status_eq]; rfl
  | aff0 => simp only [finish_eq, setFlag_status, aff0_status_eq]; rfl
  | init | idle | fetch | fin | affsel => rfl

/-- What a micro-operation leaves, in one equation (R77). -/
theorem retire_eq_slotDone (k : OpKind) (dst sa : Reg) (sb : Option Reg) (v : Nat) (s : State) :
    retire k dst sa sb v s = slotDone s.unit s.upc k dst sa sb v s := by
  rw [retire_eq_advance]
  by_cases last : s.upc + 1 = romLength s.unit
  · rw [advance_last (s := written k dst sa sb v s) last, slotDone, if_pos last]
    exact endTransition_eq (written k dst sa sb v s)
  · rw [advance_inside (s := written k dst sa sb v s) last, slotDone, if_neg last]
    rfl

/-- A row runs at its own slot, whatever `UNIT` and `UPC` were (log entry 8). -/
theorem slotDone_place (u : SeqUnit) (n : Nat) (k : OpKind) (dst sa : Reg) (sb : Option Reg) (v : Nat) (s : State) :
    slotDone u n k dst sa sb v (setUpc n (setUnit u s)) = slotDone u n k dst sa sb v s := rfl

/-! ## The operands and the result -/

/-- An operand read answers exactly what `Reads` says (R19, R21). -/
theorem readReg_of_reads {s : State} {p mc v : Nat} {r : Reg} (hp : s.p = .value p) (hmc : s.mc = .value mc)
    (h : Reads s p mc r v) : readReg r s = .ok v := by
  obtain ⟨canonical, value⟩ := h
  by_cases one : r = .one
  · subst one
    exact readReg_ok.mpr ⟨by rw [registerValue_one hp hmc, value], p, hp, canonical⟩
  · exact readReg_of_value one (by cases r <;> first | exact value | exact absurd rfl one) hp canonical

/-- The field port answers what the rules say in integers (R78 to R82). -/
theorem fieldPort_of_fieldResult {c : Params} {k : OpKind} {p mc a b v : Nat} (ha : a < p) (hb : b < p)
    (h : fieldResult c p mc k a b = some v) : fieldPort c k a b p mc = .ok v := by
  cases k with
  | mul => cases h; rfl
  | add => cases h; rw [fieldPort, fpAdd_eq_mod ha hb]
  | sub => cases h; rw [fieldPort, fpSub_eq_mod ha hb]
  | copy => cases h; rfl
  | inv =>
    by_cases ha0 : a = 0
    · simp [fieldResult, ha0] at h
    · simpa [fieldPort, fieldResult, ha0] using h

/-- An operation whose word names no second source has one source (R57). -/
theorem oneSource_of_microFields {i : Instr} {k : OpKind} {dst sa : Reg}
    (fields : microFields i = some (k, dst, sa, none)) : k = .copy ∨ k = .inv := by
  cases i <;> cases fields <;> decide

/-- What an operation with one source gets does not depend on a second operand. -/
theorem fieldResult_oneSource {k : OpKind} (h : k = .copy ∨ k = .inv) (c : Params) (p mc a b b' : Nat) :
    fieldResult c p mc k a b = fieldResult c p mc k a b' := by
  obtain rfl | rfl := h <;> rfl

/-- `P` and `MC` are written, the destination is legal, the sources are readable with the values `a` and `b`, and the
rules give the operation the result `v`. -/
structure Ready (s : State) (p mc : Nat) (k : OpKind) (dst sa : Reg) (sb : Option Reg) (a b v : Nat) : Prop where
  modulus : s.p = .value p
  constant : s.mc = .value mc
  legal : dst.legalDst = true
  first : Reads s p mc sa a
  second : ∀ r, sb = some r → Reads s p mc r b
  single : sb = none → k = .copy ∨ k = .inv
  result : fieldResult s.params p mc k a b = some v

section Ready
variable {s : State} {p mc : Nat} {k : OpKind} {dst sa : Reg} {sb : Option Reg} {a b v : Nat}

/-- A micro-operation on readable operands gets the result of the rules. -/
theorem microResult_of_ready (h : Ready s p mc k dst sa sb a b v) : microResult k sa sb s = .ok v := by
  have ra := readReg_of_reads h.modulus h.constant h.first
  cases sb with
  | none =>
    have one := h.single rfl
    have result := (fieldResult_oneSource one _ p mc a 0 b).trans h.result
    exact microResult_ok.mpr ⟨a, 0, p, mc, ra, rfl, h.modulus, h.constant,
      fieldPort_of_fieldResult h.first.1 (Nat.zero_lt_of_lt h.first.1) result⟩
  | some r =>
    have rb := h.second r rfl
    exact microResult_ok.mpr ⟨a, b, p, mc, ra, readReg_of_reads h.modulus h.constant rb, h.modulus, h.constant,
      fieldPort_of_fieldResult h.first.1 rb.1 h.result⟩

/-- Nothing that a micro-operation asks for depends on `UNIT` and `UPC`. -/
theorem Ready.place (h : Ready s p mc k dst sa sb a b v) (u : SeqUnit) (n : Nat) :
    Ready (setUpc n (setUnit u s)) p mc k dst sa sb a b v :=
  ⟨h.modulus, h.constant, h.legal, h.first, h.second, h.single, h.result⟩

/-- An operation with two sources is ready when both are readable. -/
theorem Ready.ofTwo {sb : Reg} (hp : s.p = .value p) (hmc : s.mc = .value mc) (legal : dst.legalDst = true)
    (ra : Reads s p mc sa a) (rb : Reads s p mc sb b)
    (result : fieldResult s.params p mc k a b = some v) : Ready s p mc k dst sa (some sb) a b v :=
  ⟨hp, hmc, legal, ra, fun _ h => Option.some.inj h ▸ rb, fun h => (nomatch h), result⟩

/-- An operation with one source is ready when that is readable. -/
theorem Ready.ofOne (hp : s.p = .value p) (hmc : s.mc = .value mc) (legal : dst.legalDst = true)
    (ra : Reads s p mc sa a) (single : k = .copy ∨ k = .inv)
    (result : fieldResult s.params p mc k a 0 = some v) : Ready s p mc k dst sa none a 0 v :=
  ⟨hp, hmc, legal, ra, fun _ h => (nomatch h), fun _ => single, result⟩

/-- A micro-operation on readable operands completes, wherever it runs. -/
theorem microStep_of_ready (h : Ready s p mc k dst sa sb a b v) :
    microStep k dst sa sb s = .next (slotDone s.unit s.upc k dst sa sb v s) :=
  microStep_next.mpr ⟨h.legal, v, microResult_of_ready h, (retire_eq_slotDone k dst sa sb v s).symm⟩

/-- Before the last slot of a microprogram. -/
theorem microStep_of_ready_inside (h : Ready s p mc k dst sa sb a b v) (inside : s.upc + 1 ≠ romLength s.unit) :
    microStep k dst sa sb s = .next { s with
      regs := s.regs.set dst (.value v)
      trace := s.trace ++ [{ unit := s.unit, slot := s.upc + 1, op := k, dst := dst, sa := sa, sb := sb }]
      upc := s.upc + 1 } := by
  rw [microStep_of_ready h, slotDone, if_neg inside]

/-- At its last slot. -/
theorem microStep_of_ready_last (h : Ready s p mc k dst sa sb a b v) (last : s.upc + 1 = romLength s.unit) :
    microStep k dst sa sb s = .next (microprogramEnd { s with
      regs := s.regs.set dst (.value v)
      trace := s.trace ++ [{ unit := s.unit, slot := s.upc + 1, op := k, dst := dst, sa := sa, sb := sb }]
      upc := 0 }) := by
  rw [microStep_of_ready h, slotDone, if_pos last]

end Ready

/-! ## The five micro-operations (R77 to R82) -/

/-- Settles O11. -/
theorem fmulWritesTheProduct : Obligations.FmulWritesTheProduct := by
  intro s dst sa sb p mc a b hp hmc legal ra rb inside
  have ready : Ready s p mc .mul dst sa (some sb) a b (fpMul s.params p mc a b) := .ofTwo hp hmc legal ra rb rfl
  exact ⟨microStep_of_ready_inside ready inside, fun hc => fpMul_reference hc p mc a b⟩

/-- Settles O12. -/
theorem faddWritesTheSum : Obligations.FaddWritesTheSum := by
  intro s dst sa sb p mc a b hp hmc legal ra rb inside
  have ready : Ready s p mc .add dst sa (some sb) a b ((a + b) % p) := .ofTwo hp hmc legal ra rb rfl
  exact microStep_of_ready_inside ready inside

/-- Settles O13: the rules' `(a + p - b) mod p` is the integers' `(a - b) mod p`. -/
theorem fsubWritesTheDifference : Obligations.FsubWritesTheDifference := by
  intro s dst sa sb p mc a b hp hmc legal ra rb inside
  rw [← fpSub_eq_emod ra.1 rb.1, fpSub_eq_mod ra.1 rb.1]
  have ready : Ready s p mc .sub dst sa (some sb) a b ((a + p - b) % p) := .ofTwo hp hmc legal ra rb rfl
  exact microStep_of_ready_inside ready inside

/-- Settles O14. -/
theorem fcpyWritesItsSource : Obligations.FcpyWritesItsSource := by
  intro s dst sa p mc a hp hmc legal ra inside
  have ready : Ready s p mc .copy dst sa none a 0 a := .ofOne hp hmc legal ra (.inl rfl) rfl
  exact microStep_of_ready_inside ready inside

/-- Settles O15. -/
theorem finvWritesTheInverse : Obligations.FinvWritesTheInverse := by
  intro s dst sa p mc a hp hmc good legal ra ha0 inside
  obtain ⟨prime, h3, -⟩ := (goodModulus_iff _ _).mp good
  have := Fact.mk prime
  have ready : Ready s p mc .inv dst sa none a 0 (fpInv s.params p a) :=
    .ofOne hp hmc legal ra (.inr rfl) (if_neg ha0)
  exact ⟨fpInv s.params p a, rfl, Nat.one_le_iff_ne_zero.mpr (fpInv_ne_zero s.params h3 ra.1 ha0),
    fpInv_lt s.params a (by omega), fpMul_fpInv s.params mc h3 ra.1 ha0, microStep_of_ready_inside ready inside⟩

/-- A row with operands runs the micro-operation that its fields name. -/
theorem exec_of_microFields {i : Instr} {k : OpKind} {dst sa : Reg} {sb : Option Reg}
    (fields : microFields i = some (k, dst, sa, sb)) (s : State) : exec i s = microStep k dst sa sb s := by
  cases i <;> cases fields <;> rfl

/-- Settles O18. -/
theorem lastSlotMakesTheTransition : Obligations.LastSlotMakesTheTransition := by
  intro i k dst sa sb s p mc a b c fields wf hp hmc ra rb result last
  have legal : dst.legalDst = true := (encode_of_microFields fields).2 ▸ wf
  have ready : Ready s p mc k dst sa sb a b c :=
    ⟨hp, hmc, legal, ra, rb, fun h => oneSource_of_microFields (h ▸ fields), result⟩
  rw [exec_of_microFields fields, microStep_of_ready_last ready last]

/-! ## The rows of the ROMs -/

/-- The fields of a slot are those of the micro-operation that its word decodes to. -/
theorem exists_microFields_of_slotFields {u : SeqUnit} {n : Nat} {f : OpKind × Reg × Reg × Option Reg}
    (h : slotFields u n = some f) : ∃ i, microFields i = some f := by
  unfold slotFields at h
  repeat' split at h
  · cases h
  · cases h
  · exact ⟨_, h⟩

theorem legalDst_of_slotFields {u : SeqUnit} {n : Nat} {op : OpKind} {dst sa : Reg} {sb : Option Reg}
    (h : slotFields u n = some (op, dst, sa, sb)) : dst.legalDst = true := by
  have inside : n < romLength u := by
    cases word : romWord u n with
    | none => simp [slotFields, word] at h
    | some w => exact romWord_isSome.mp (by simp [word])
  obtain ⟨_, _, _, _, fields, legal, -⟩ := slotFields_of_lt inside
  rw [h] at fields
  cases fields
  exact legal

/-- A row of any ROM, on readable operands, completes at its slot. -/
theorem exec_romRow_done {s : State} {u : SeqUnit} {i : Instr} {n : Nat} {op : OpKind} {dst sa : Reg} {sb : Option Reg}
    {p mc a b c : Nat} (row : romRow u n = some i) (fields : slotFields u n = some (op, dst, sa, sb))
    (hp : s.p = .value p) (hmc : s.mc = .value mc) (ra : Reads s p mc sa a)
    (rb : ∀ r, sb = some r → Reads s p mc r b) (result : fieldResult s.params p mc op a b = some c) :
    exec i s = .next (slotDone u n op dst sa sb c s) := by
  obtain ⟨j, micro⟩ := exists_microFields_of_slotFields fields
  have ready : Ready s p mc op dst sa sb a b c :=
    ⟨hp, hmc, legalDst_of_slotFields fields, ra, rb, fun h => oneSource_of_microFields (h ▸ micro), result⟩
  rw [exec_romRow row fields, slotStep, microStep_of_ready (ready.place u n)]
  exact congrArg _ (slotDone_place u n op dst sa sb c s)

/-- Settles O19. -/
theorem primitiveRowsComplete : Obligations.PrimitiveRowsComplete := by
  intro s u i k op dst sa sb p mc a b c _ row fields hp hmc ra rb result
  exact exec_romRow_done row fields hp hmc ra rb result

end Sys2Proof.Proofs
end

section
/-!
A microprogram as a function on field elements: what the slots of a ROM make of the values of the registers, and the
run of a ROM from its entry to the transition at its end, on registers that represent those values (R77, R142).
-/

namespace Sys2Proof.Proofs

open Sys2Proof.Machine Sys2Proof.Laws

/-! ## The operations on field elements (R76, R78 to R82) -/

/-- What an operation does to the elements its operands represent. -/
def fieldOp {F : Type} [CommRing F] [Inv F] (k : OpKind) (a b : F) : F :=
  match k with
  | .mul => a * b
  | .add => a + b
  | .sub => a - b
  | .copy => a
  | .inv => a⁻¹

/-- The result of the rules represents the result on the field. -/
theorem exists_fieldResult (c : Params) {p : Nat} (mc : Nat) (good : goodModulus c p = true) (k : OpKind) {a b : Nat}
    (ha : a < p) (hb : b < p) (invertible : k = .inv → fieldOf c p mc a ≠ 0) :
    ∃ v, fieldResult c p mc k a b = some v ∧ v < p ∧
      fieldOf c p mc v = fieldOp k (fieldOf c p mc a) (fieldOf c p mc b) := by
  obtain ⟨prime, h3, -⟩ := (goodModulus_iff _ _).mp good
  have := Fact.mk prime
  have hp : 0 < p := by omega
  cases k with
  | mul => exact ⟨_, rfl, fpMul_lt c mc a b hp, fieldOf_mul c mc h3 a b⟩
  | add => exact ⟨_, rfl, Nat.mod_lt _ hp, fpAdd_eq_mod ha hb ▸ fieldOf_add c mc ha hb⟩
  | sub => exact ⟨_, rfl, Nat.mod_lt _ hp, fpSub_eq_mod ha hb ▸ fieldOf_sub c mc hb⟩
  | copy => exact ⟨a, rfl, ha, rfl⟩
  | inv =>
    have ha0 : a ≠ 0 := fun h => invertible rfl ((fieldOf_eq_zero c mc h3 ha).mpr h)
    exact ⟨fpInv c p a, if_neg ha0, fpInv_lt c a hp, fieldOf_inv c mc h3 a⟩

/-! ## The values of the registers -/

/-- The values after one operation. -/
def assign {F : Type} [CommRing F] [Inv F] (e : Reg → F) (f : OpKind × Reg × Reg × Option Reg) : Reg → F :=
  match f with
  | (k, dst, sa, sb) => Function.update e dst (fieldOp k (e sa) (e (sb.getD sa)))

/-- The operations of the first `n` slots of `ROM.<u>`. -/
def slotsBefore (u : SeqUnit) (n : Nat) : List (OpKind × Reg × Reg × Option Reg) :=
  (List.range n).filterMap (slotFields u)

/-- The values after the first `n` slots of `ROM.<u>`. -/
def valuesAfter {F : Type} [CommRing F] [Inv F] (u : SeqUnit) (n : Nat) (e : Reg → F) : Reg → F :=
  (slotsBefore u n).foldl assign e

theorem valuesAfter_succ {F : Type} [CommRing F] [Inv F] {u : SeqUnit} {n : Nat}
    {f : OpKind × Reg × Reg × Option Reg} (fields : slotFields u n = some f) (e : Reg → F) :
    valuesAfter u (n + 1) e = assign (valuesAfter u n e) f := by
  simp [valuesAfter, slotsBefore, List.range_succ, fields]

/-- The events of the first `n` slots of `ROM.<u>`. -/
def eventsBefore (u : SeqUnit) (n : Nat) : List Event := (List.range n).filterMap (slotEvent u)

theorem eventsBefore_succ {u : SeqUnit} {n : Nat} {k : OpKind} {dst sa : Reg} {sb : Option Reg}
    (fields : slotFields u n = some (k, dst, sa, sb)) :
    eventsBefore u (n + 1) = eventsBefore u n ++ [⟨u, n + 1, k, dst, sa, sb⟩] := by
  simp [eventsBefore, List.range_succ, slotEvent, fields]

theorem romEvents_eq (u : SeqUnit) : romEvents u = eventsBefore u (romLength u) := rfl

/-! ## The slots -/

theorem lt_of_slotFields {u : SeqUnit} {n : Nat} {f : OpKind × Reg × Reg × Option Reg}
    (h : slotFields u n = some f) : n < romLength u := by
  cases word : romWord u n with
  | none => simp [slotFields, word] at h
  | some w => exact romWord_isSome.mp (by simp [word])

/-- No slot writes `ONE` (R60). -/
theorem slotWrites_one (u : SeqUnit) (n : Nat) : slotWrites u n .one = false := by
  unfold slotWrites
  split
  · rename_i fields
    simpa using legalDst_ne_one (legalDst_of_slotFields fields)
  · rfl

theorem ne_one_of_writtenBefore {u : SeqUnit} {n : Nat} {r : Reg} (h : writtenBefore u n r = true) : r ≠ .one := by
  rintro rfl
  simp [writtenBefore, slotWrites_one] at h

/-- Every source of every slot of `ROM.<u>` is among the inputs or was written by an earlier slot. -/
def Supplied (ins : List Reg) (u : SeqUnit) : Prop :=
  ∀ k < romLength u, ∀ r, slotReads u k r = true → r ∈ ins ∨ writtenBefore u k r = true

/-! ## Registers that represent given values -/

/-- A read of `r` answers a canonical value that represents `e`: `Means`, and for `ONE` too. -/
def Represents (s : State) (p mc : Nat) (r : Reg) (e : ZMod p) : Prop :=
  ∃ v, Reads s p mc r v ∧ fieldOf s.params p mc v = e

/-- A read of a register other than `ONE` answers what the file holds (R21). -/
theorem reads_iff {s : State} {p mc v : Nat} {r : Reg} (h : r ≠ .one) :
    Reads s p mc r v ↔ v < p ∧ s.regs.get r = .value v := by
  cases r <;> first | exact Iff.rfl | exact absurd rfl h

theorem represents_iff {s : State} {p mc : Nat} {r : Reg} {e : ZMod p} (h : r ≠ .one) :
    Represents s p mc r e ↔ Means s p mc r e := by
  unfold Represents Means
  simp only [reads_iff h]
  exact exists_congr fun v => by tauto

/-- Only what `r` holds and the parameters matter. -/
theorem Represents.of_same {s t : State} {p mc : Nat} {r : Reg} {e : ZMod p} (h : Represents s p mc r e)
    (params : t.params = s.params) (same : t.regs.get r = s.regs.get r) : Represents t p mc r e := by
  obtain ⟨v, hv, he⟩ := h
  refine ⟨v, ?_, params ▸ he⟩
  by_cases one : r = .one
  · subst one
    exact ⟨hv.1, by rw [params]; exact hv.2⟩
  · rw [reads_iff one] at hv ⊢
    exact ⟨hv.1, same.trans hv.2⟩

/-! ## Progress through a microprogram -/

/-- A microprogram is at its entry, on inputs that represent the values `e`, and it inverts no zero. -/
structure Start (s : State) (p mc : Nat) (ins : List Reg) (e : Reg → ZMod p) : Prop where
  quiet : s.inputs = []
  entry : s.upc = 0
  injected : s.injected = none
  config : Configured s p mc
  supplied : Supplied ins s.unit
  represents : ∀ r ∈ ins, Represents s p mc r (e r)
  invertible : ∀ n dst sa sb, slotFields s.unit n = some (.inv, dst, sa, sb) → valuesAfter s.unit n e sa ≠ 0

/-- The microprogram entered at `s` has written what its first `n` slots write: every input and every register that a
slot has written represents its value, and nothing else has changed but the trace and `UPC`. -/
structure Progress (s : State) (p mc : Nat) (ins : List Reg) (e : Reg → ZMod p) (n : Nat) (t : State) : Prop where
  frame : t = { s with regs := t.regs, trace := s.trace ++ eventsBefore s.unit n, upc := t.upc }
  kept : ∀ r, writtenBefore s.unit n r = false → t.regs.get r = s.regs.get r
  represents : ∀ r, r ∈ ins ∨ writtenBefore s.unit n r = true → Represents t p mc r (valuesAfter s.unit n e r)

section Microprogram
variable {s t : State} {p mc n : Nat} {ins : List Reg} {e : Reg → ZMod p}

theorem Progress.setUpc (h : Progress s p mc ins e n t) (m : Nat) : Progress s p mc ins e n { t with upc := m } :=
  ⟨by rw [h.frame], h.kept, fun r hr => (h.represents r hr).of_same rfl rfl⟩

theorem Start.progress_zero (h : Start s p mc ins e) : Progress s p mc ins e 0 s where
  frame := by simp [eventsBefore]
  kept := fun _ _ => rfl
  represents := fun r hr => h.represents r (hr.resolve_right (by simp [writtenBefore]))

/-- What the slot at `UPC` leaves, by what it writes (R77). -/
theorem slotDone_written (k : OpKind) (dst sa : Reg) (sb : Option Reg) (v : Nat) (t : State) :
    slotDone t.unit t.upc k dst sa sb v t =
      if t.upc + 1 = romLength t.unit then microprogramEnd { written k dst sa sb v t with upc := 0 }
      else { written k dst sa sb v t with upc := t.upc + 1 } := rfl

/-- What the slot at `UPC` writes is progress, when its result represents the value it should. -/
theorem Progress.written {k : OpKind} {dst sa : Reg} {sb : Option Reg} {v : Nat}
    (g : Progress s p mc ins e t.upc t) (fields : slotFields s.unit t.upc = some (k, dst, sa, sb))
    (legal : dst.legalDst = true) (canonical : v < p)
    (value : fieldOf t.params p mc v =
      fieldOp k (valuesAfter s.unit t.upc e sa) (valuesAfter s.unit t.upc e (sb.getD sa))) :
    Progress s p mc ins e (t.upc + 1) (written k dst sa sb v t) := by
  have writes : ∀ r, slotWrites s.unit t.upc r = (dst == r) := fun r => by simp [slotWrites, fields]
  refine ⟨?frame, fun r hr => ?kept, fun r hr => ?represents⟩
  case frame =>
    have wrote := congrArg (Proofs.written k dst sa sb v) g.frame
    rw [eventsBefore_succ fields, ← List.append_assoc]
    exact wrote
  case kept =>
    rw [writtenBefore_succ, writes, Bool.or_eq_false_iff, beq_eq_false_iff_ne] at hr
    rw [written_get r legal, if_neg (Ne.symm hr.2)]
    exact g.kept r hr.1
  case represents =>
    rw [valuesAfter_succ fields, assign]
    by_cases hd : r = dst
    · subst hd
      rw [Function.update_self, ← value]
      have wrote : (Proofs.written k r sa sb v t).regs.get r = .value v := by rw [written_get r legal, if_pos rfl]
      exact ⟨v, (reads_iff (legalDst_ne_one legal)).mpr ⟨canonical, wrote⟩, rfl⟩
    · rw [Function.update_of_ne hd]
      rw [writtenBefore_succ, writes, Bool.or_eq_true, beq_iff_eq] at hr
      refine (g.represents r (hr.imp_right fun hw => hw.resolve_right (Ne.symm hd))).of_same rfl ?_
      rw [written_get r legal, if_neg hd]

/-- The operation of the next slot gets its result: the step is progress, and after the last slot the transition. -/
theorem Start.step_slot (h : Start s p mc ins e) (g : Progress s p mc ins e n t) (upc : t.upc = n)
    (inside : n < romLength s.unit) : ∃ w, Progress s p mc ins e (n + 1) w ∧
      step t = .next (if n + 1 = romLength s.unit then microprogramEnd { w with upc := 0 }
        else { w with upc := n + 1 }) := by
  subst upc
  obtain ⟨k, dst, sa, sb, fields, legal, -⟩ := slotFields_of_lt inside
  have params : t.params = s.params := by rw [g.frame]
  have unit : t.unit = s.unit := by rw [g.frame]
  have source : ∀ r, slotReads s.unit t.upc r = true → Represents t p mc r (valuesAfter s.unit t.upc e r) :=
    fun r hr => g.represents r (h.supplied t.upc inside r hr)
  obtain ⟨a, ra, hea⟩ := source sa (by simp [slotReads, fields])
  obtain ⟨b, rb, heb⟩ := source (sb.getD sa) (by cases sb <;> simp [slotReads, fields])
  obtain ⟨v, result, canonical, value⟩ := exists_fieldResult t.params mc (params ▸ h.config.good) k ra.1 rb.1
    (fun hk => by subst hk; rw [hea]; exact h.invertible t.upc dst sa sb fields)
  obtain ⟨i, micro⟩ := exists_microFields_of_slotFields fields
  have ready : Ready t p mc k dst sa sb a b v :=
    { modulus := by rw [g.frame]; exact h.config.modulus
      constant := by rw [g.frame]; exact h.config.constant
      legal := legal
      first := ra
      second := fun r hr => by subst hr; exact rb
      single := fun hs => oneSource_of_microFields (hs ▸ micro)
      result := result }
  refine ⟨Proofs.written k dst sa sb v t, g.written fields legal canonical (by rw [value, hea, heb]), ?_⟩
  rw [← unit] at inside fields ⊢
  rw [step_nil (by rw [g.frame]; exact h.quiet), sequencerStep_slot (by rw [g.frame]; exact h.injected) inside fields,
    microStep_of_ready ready, slotDone_written]

/-! ## Runs -/

theorem run_add {m : Nat} : ∀ {s t : State}, run m s = .next t → ∀ n, run (m + n) s = run n t := by
  induction m with
  | zero =>
    intro s t h n
    cases h
    rw [Nat.zero_add]
  | succ m ih =>
    intro s t h n
    rw [Nat.add_right_comm, run_succ]
    rw [run_succ] at h
    cases hs : step s with
    | next u => rw [hs] at h; exact ih h n
    | fault f => rw [hs] at h; cases h
    | refused r => rw [hs] at h; cases h

theorem run_one (s : State) : run 1 s = step s := by
  rw [run_succ]
  cases step s <;> rfl

/-- Inside a microprogram, one step per slot (R77). -/
theorem Start.run_inside (h : Start s p mc ins e) (inside : n < romLength s.unit) :
    ∃ t, run n s = .next t ∧ t.upc = n ∧ Progress s p mc ins e n t := by
  induction n with
  | zero => exact ⟨s, rfl, h.entry, h.progress_zero⟩
  | succ n ih =>
    obtain ⟨t, ran, upc, progress⟩ := ih (by omega)
    obtain ⟨w, progress', next⟩ := h.step_slot progress upc (by omega)
    rw [if_neg (by omega)] at next
    exact ⟨_, by rw [run_add ran, run_one, next], rfl, progress'.setUpc _⟩

/-- A microprogram runs to its end in one step per slot, and makes the transition of R142 there. -/
theorem Start.run_microprogram (h : Start s p mc ins e) (rom : romLength s.unit ≠ 0) :
    ∃ w, run (romLength s.unit) s = .next (microprogramEnd w) ∧ w.upc = 0 ∧
      Progress s p mc ins e (romLength s.unit) w := by
  obtain ⟨n, hn⟩ := Nat.exists_eq_succ_of_ne_zero rom
  obtain ⟨t, ran, upc, progress⟩ := h.run_inside (n := n) (by omega)
  obtain ⟨w, progress', next⟩ := h.step_slot progress upc (by omega)
  rw [if_pos hn.symm] at next
  rw [hn]
  exact ⟨_, by rw [Nat.succ_eq_add_one, run_add ran, run_one, next], rfl, progress'.setUpc 0⟩

end Microprogram

end Sys2Proof.Proofs
end

section
/-!
The structure of the two primitives (R93, R102, R103), and why no step of theirs faults inside a digit: each source of
each slot is a Point register, the addend, or a register that an earlier slot wrote (R97, R107, R174).
-/

namespace Sys2Proof.Proofs

open Sys2Proof.Machine Sys2Proof.Laws

/-! ## What the slots read (R91, R97, R107) -/

/-- The listing of the doubling (R91). -/
theorem slotsBefore_dbl : slotsBefore .dbl 21 =
    [(.mul, .r0, .x, some .x), (.mul, .r1, .z2, some .z2), (.sub, .r0, .r0, some .r1), (.copy, .t0, .r1, none),
     (.add, .r2, .y, some .y), (.mul, .r3, .r2, some .r2), (.mul, .z, .z, some .r2), (.mul, .r2, .r2, some .y),
     (.mul, .x, .x, some .r3), (.mul, .z2, .z, some .z), (.add, .r1, .r0, some .r0), (.add, .r0, .r1, some .r0),
     (.mul, .r1, .r0, some .r0), (.sub, .t0, .r1, some .x), (.mul, .r2, .r2, some .r3), (.sub, .r3, .t0, some .x),
     (.sub, .x, .x, some .r3), (.mul, .r0, .r0, some .x), (.sub, .y, .r0, some .r2), (.mul, .z3, .z, some .z2),
     (.copy, .x, .r3, none)] := rfl

/-- The inputs of the doubling are four of the Point registers: `Z3` is written and not read (R97). -/
theorem supplied_dbl : Supplied [.x, .y, .z, .z2] .dbl := by
  intro k hk r
  revert k
  cases r <;> decide

/-- The inputs of the addition are the Point and the addend (R107). -/
theorem supplied_add : Supplied [.x, .y, .z, .z2, .z3, .ax, .ay] .add := by
  intro k hk r
  revert k
  cases r <;> decide

theorem supplied_primitive {u : SeqUnit} (hu : u = .dbl ∨ u = .add) :
    Supplied [.x, .y, .z, .z2, .z3, .ax, .ay] u := by
  obtain rfl | rfl := hu
  · exact fun k hk r hr => (supplied_dbl k hk r hr).imp_left fun h => List.mem_append_left [.z3, .ax, .ay] h
  · exact supplied_add

/-- Neither primitive inverts (R93, R102). -/
theorem primitive_not_inv {u : SeqUnit} (hu : u = .dbl ∨ u = .add) {n : Nat} {op : OpKind} {dst sa : Reg}
    {sb : Option Reg} (fields : slotFields u n = some (op, dst, sa, sb)) : op ≠ .inv := by
  have listed : ∀ u ∈ [SeqUnit.dbl, .add], ∀ k < 21, ∀ f ∈ slotFields u k, f.1 ≠ .inv := by decide
  have inside := lt_of_slotFields fields
  obtain rfl | rfl := hu
  · exact listed .dbl (by simp) n inside _ fields
  · exact listed .add (by simp) n inside _ fields

/-- Settles O7: counts and comparisons over the two listings. -/
theorem primitivesKeepTheirStructure : Obligations.PrimitivesKeepTheirStructure := by
  refine ⟨fun u hu => ⟨?length, ?events, ?muls, ?adds, ?subs, ?copies, ?invs, ?destinations, ?scratch⟩,
    ?dblDead, ?addDead⟩
  case dblDead => decide
  case addDead => decide
  all_goals
    simp only [List.mem_cons, List.not_mem_nil, or_false] at hu
    obtain rfl | rfl := hu <;> decide

/-! ## No step inside a digit faults -/

/-- A register that holds a canonical value is read. -/
theorem readReg_of_holds {s : State} {r : Reg} (h : Holds s r) : ∃ v, readReg r s = .ok v := by
  obtain ⟨v, p, hv, hp, hlt⟩ := h
  exact ⟨v, readReg_of_value (by rintro rfl; cases hv) hv hp hlt⟩

/-- A micro-operation other than `FINV` gets a result when its sources hold canonical values. -/
theorem microResult_of_holds {s : State} {op : OpKind} {sa : Reg} {sb : Option Reg} (run : Running s)
    (noInv : op ≠ .inv) (first : Holds s sa) (second : ∀ r, sb = some r → Holds s r) :
    ∃ v, microResult op sa sb s = .ok v := by
  obtain ⟨p, mc, hp, hmc, -⟩ := run.modulus
  obtain ⟨a, ha⟩ := readReg_of_holds first
  obtain ⟨b, hb⟩ : ∃ b, readSecond sb s = .ok b := by
    cases sb with
    | none => exact ⟨0, rfl⟩
    | some r => exact readReg_of_holds (second r rfl)
  cases hv : fieldPort s.params op a b p mc with
  | ok v => exact ⟨v, microResult_ok.mpr ⟨a, b, p, mc, ha, hb, hp, hmc, hv⟩⟩
  | error f => exact absurd (fieldPort_error.mp hv).1 noInv

/-- A digit is worked on in one of the two primitives, under a command of the driver (R142). -/
theorem atDigit_iff {s : State} :
    atDigit s = true ↔ (s.unit = .dbl ∨ s.unit = .add) ∧ driverCommand s.cmdr = true := by
  simp [atDigit]

/-- Inside a digit every source holds a canonical value: the accumulator and the addend do, and so does what an earlier
slot wrote (R97, R107). -/
theorem Holds_of_digit {s : State} (inv : Invariant s) (digit : atDigit s = true) (inside : s.upc < romLength s.unit)
    {r : Reg} (reads : slotReads s.unit s.upc r = true) : Holds s r := by
  obtain ⟨hu, driver⟩ := atDigit_iff.mp digit
  obtain input | earlier := supplied_primitive hu _ inside r reads
  · have point : ∀ r ∈ [Reg.x, .y, .z, .z2, .z3, .ax, .ay], r.isPoint = true ∨ r = .ax ∨ r = .ay := by decide
    exact inv.point_holds (by obtain hu | hu := hu <;> simp [afterInit, hu, driver]) r (point r input)
  · exact inv.slots_held r (ne_one_of_writtenBefore earlier) (by rw [earlier]; rfl)

theorem sequencerStep_digit {s : State} (inv : Invariant s) (digit : atDigit s = true) :
    ∃ t, sequencerStep s = .next t := by
  obtain ⟨hu, -⟩ := atDigit_iff.mp digit
  have inside : s.upc < romLength s.unit := by
    have bound := inv.upc_bound
    rwa [if_neg (by obtain hu | hu := hu <;> simp [hu, romLength])] at bound
  obtain ⟨op, dst, sa, sb, fields, legal, -⟩ := slotFields_of_lt inside
  have reads := fun r => Holds_of_digit inv digit inside (r := r)
  have run := Invariant_running inv (by obtain hu | hu := hu <;> simp [hu])
  obtain ⟨v, result⟩ := microResult_of_holds run (primitive_not_inv hu fields) (sb := sb)
    (reads sa (by simp [slotReads, fields])) fun r hr => reads r (by simp [slotReads, fields, hr])
  rw [sequencerStep_slot inv.not_injected inside fields]
  exact ⟨_, microStep_next.mpr ⟨legal, v, result, rfl⟩⟩

/-- A busy core faults only where a step of the sequencer does: the host's transactions only answer (R45). -/
theorem exists_step_of_busy {s : State} (busy : flag .busy s = true)
    (sequencer : ∀ is, ∃ t, sequencerStep { s with inputs := is } = .next t) : ∃ t, step s = .next t := by
  cases hi : s.inputs with
  | nil =>
    obtain ⟨t, ht⟩ := sequencer s.inputs
    exact ⟨t, by rw [step_nil hi]; exact ht⟩
  | cons i rest =>
    cases i with
    | tick =>
      obtain ⟨t, ht⟩ := sequencer rest
      exact ⟨t, by rw [step_tick hi, ht, faultExit_next]⟩
    | waitDone =>
      cases hd : flag .done s with
      | false =>
        obtain ⟨t, ht⟩ := sequencer s.inputs
        exact ⟨t, by rw [step_wait hi hd, ht, faultExit_next]⟩
      | true => exact ⟨_, step_wait_over hi hd⟩
    | read ha => exact ⟨_, step_read hi⟩
    | reset => exact ⟨_, step_reset hi⟩
    | write ha v =>
      refine ⟨_, step_refused hi fun legal => ?_⟩
      obtain ⟨r, -, free, -⟩ := hostWriteLegal_iff.mp legal
      rw [busy] at free
      cases free

/-- Settles O44. -/
theorem digitsNeverFault : Obligations.DigitsNeverFault := by
  intro s inv digit
  have busy : flag .busy s = true := inv.busy_iff.mpr (by
    obtain ⟨hu | hu, -⟩ := atDigit_iff.mp digit <;> simp [hu])
  exact exists_step_of_busy busy fun is =>
    sequencerStep_digit (s := { s with inputs := is }) (Invariant_of_eq inv rfl) digit

end Sys2Proof.Proofs
end

section
/-!
The commands of the two primitives from the accept step to the finish (R135, R136, R137, R143), and command `DBL` as a
function: its closed form on any written, canonical Point (R92, R96, R97), and the affine doubling that it is in the
generic case (R94).
-/

namespace Sys2Proof.Proofs

open Sys2Proof.Machine Sys2Proof.Laws

/-! ## The accept step (R135) -/

/-- The `STATUS` byte of an accepted command: the flags cleared and `BUSY` set. -/
theorem accepted_status_eq (st : BitVec 8) : putFlag (st &&& 0x81#8) .busy true = (st &&& 0x80#8) ||| 0x01#8 := by
  refine status_ext (by simp) fun f => ?_
  rw [getFlag_putFlag]
  cases f <;> simp [getFlag, flagBit]

theorem takeCommand_eq (c : Code) (s : State) :
    takeCommand c s = { s with status := s.status &&& 0x81#8, cmdr := c, reply := .done } := rfl

theorem setFlag_eq (f : Flag) (b : Bool) (s : State) :
    setFlag f b s = { s with status := putFlag s.status f b } := rfl

theorem enterPrimitive_eq (u : SeqUnit) (s : State) :
    enterPrimitive u s = { s with regs := s.regs.dropScratch, unit := u, upc := 0 } := rfl

/-- The accept step of `DBL` and `ADD`, with the whole next state (R16, R135). -/
theorem accept_primitive {s : State} {p mc : Nat} (config : Configured s p mc) (free : flag .busy s = false) (c : Code)
    (u : SeqUnit) : accept c checkModulus (enterPrimitive u) s = .next { s with
      status := (s.status &&& 0x80#8) ||| 0x01#8, cmdr := c, regs := s.regs.dropScratch, unit := u, upc := 0
      reply := .done } := by
  have check : checkModulus (takeCommand c s) = none :=
    checkModulus_none.mpr ⟨p, mc, config.modulus, config.constant, config.good⟩
  have accepted : accept c checkModulus (enterPrimitive u) s =
      .next (enterPrimitive u (setFlag .busy true (takeCommand c s))) := accept_next.mpr (.inr ⟨free, check, rfl⟩)
  rw [accepted, takeCommand_eq, setFlag_eq, enterPrimitive_eq, accepted_status_eq]

theorem not_busy_of_quiet {s : State} (q : Quiet s) : flag .busy s = false := by
  cases busy : flag .busy s with
  | false => rfl
  | true => exact absurd q.idle (q.inv.busy_iff.mp busy)

/-- A code written to `CMD` of a quiet core is run (R135). -/
theorem step_issue {s t : State} {c : Nat} (q : Quiet s) (fits : c < 256)
    (h : exec (decodeCommand (BitVec.ofNat 8 c)) s = .next t) : step (issue c s) = .next t := by
  have free : flag .busy (issue c s) = false := not_busy_of_quiet (s := s) q
  have inputs : { issue c s with inputs := [] } = s := congrArg (fun is => { s with inputs := is }) q.inputs.symm
  rw [step_command (s := issue c s) rfl (hostWriteLegal_cmd.mpr ⟨free, fits⟩), inputs, h, faultExit_next]

/-- The reserved bit is 0, so an accepted command has `BUSY` set alone (R30, R135). -/
theorem accepted_status_of_quiet {s : State} (q : Quiet s) : (s.status &&& 0x80#8) ||| 0x01#8 = 0x01#8 := by
  rw [← accepted_status_eq]
  refine status_ext (by simpa using q.inv.reserved_bit) fun f => ?_
  rw [getFlag_putFlag]
  cases f <;> simp [getFlag, flagBit]

/-- The codes of the two primitives (R136, R137). -/
def PrimitiveCode (c : Nat) (u : SeqUnit) : Prop := (c = 0x01 ∧ u = .dbl) ∨ (c = 0x02 ∧ u = .add)

/-- A core at the entry of a primitive that the host asked for (R16, R135). -/
def primitiveEntry (c : Nat) (u : SeqUnit) (s : State) : State :=
  { s with status := 0x01#8, cmdr := BitVec.ofNat 8 c, regs := s.regs.dropScratch, unit := u, upc := 0, reply := .done }

theorem step_issue_primitive {s : State} {p mc c : Nat} {u : SeqUnit} (q : Quiet s) (config : Configured s p mc)
    (which : PrimitiveCode c u) : step (issue c s) = .next (primitiveEntry c u s) := by
  have accepted := accept_primitive config (not_busy_of_quiet q)
  simp only [accepted_status_of_quiet q] at accepted
  obtain ⟨rfl, rfl⟩ | ⟨rfl, rfl⟩ := which
  · exact step_issue q (by decide) (accepted 0x01#8 .dbl)
  · exact step_issue q (by decide) (accepted 0x02#8 .add)

/-! ## From the accept step to the finish -/

theorem RegFile_get_dropScratch (f : RegFile) (r : Reg) :
    f.dropScratch.get r = if r.isScratch then .unwritten else f.get r := by
  cases r <;> rfl

/-- At the end of its own command a primitive finishes (R142, R143). -/
theorem microprogramEnd_command {c : Nat} {w : State} (which : PrimitiveCode c w.unit)
    (cmdr : w.cmdr = BitVec.ofNat 8 c) :
    microprogramEnd w = { w with unit := .idle, status := (w.status &&& 0xFE#8) ||| 0x02#8 } := by
  obtain ⟨rfl, hu⟩ | ⟨rfl, hu⟩ := which <;> simp [microprogramEnd, hu, cmdr]

/-- What a primitive leaves at the end of its own command: all but the registers, by an equation. -/
theorem microprogramEnd_of_progress {s w : State} {p mc c : Nat} {u : SeqUnit} {ins : List Reg} {e : Reg → ZMod p}
    (q : Quiet s) (which : PrimitiveCode c u) (progress : Progress (primitiveEntry c u s) p mc ins e (romLength u) w)
    (upc : w.upc = 0) :
    microprogramEnd w = { s with
      regs := w.regs, status := 0x02#8, cmdr := BitVec.ofNat 8 c, trace := s.trace ++ romEvents u
      reply := .done } := by
  have frame : w = { primitiveEntry c u s with regs := w.regs, trace := s.trace ++ romEvents u } := by
    rw [progress.frame, upc]
    rfl
  have unit : w.unit = u := by rw [frame]; rfl
  have cmdr : w.cmdr = BitVec.ofNat 8 c := by rw [frame]; rfl
  have status : (w.status &&& 0xFE#8) ||| 0x02#8 = 0x02#8 := by
    rw [show w.status = 0x01#8 by rw [frame]; rfl]
    decide
  have idle : { s with unit := .idle, upc := 0 } = s := by
    rw [← q.idle, ← Invariant_upc_idle q.inv q.idle]
  rw [microprogramEnd_command (by rw [unit]; exact which) cmdr, status]
  calc { w with unit := .idle, status := 0x02#8 }
      = { ({ s with unit := .idle, upc := 0 } : State) with
          regs := w.regs, status := 0x02#8, cmdr := BitVec.ofNat 8 c, trace := s.trace ++ romEvents u
          reply := .done } := by rw [frame]; rfl
    _ = _ := by rw [idle]

/-- Command `DBL` or `ADD` on inputs that represent `e`: after the accept step and 21 slots the core is idle, every
register that the microprogram writes means its value, and no other register but the scratch registers has changed. -/
theorem run_primitive {s : State} {p mc c : Nat} {u : SeqUnit} {ins : List Reg} {e : Reg → ZMod p} (q : Quiet s)
    (config : Configured s p mc) (which : PrimitiveCode c u) (supplied : Supplied ins u)
    (inputs : ∀ r ∈ ins, r.isScratch = false ∧ Represents s p mc r (e r)) :
    ∃ t, run 22 (issue c s) = .next t ∧
      t = { s with regs := t.regs, status := 0x02#8, cmdr := BitVec.ofNat 8 c, trace := s.trace ++ romEvents u
                   reply := .done } ∧
      (∀ r, r.isScratch = false → writtenBefore u 21 r = false → t.regs.get r = s.regs.get r) ∧
      ∀ r, writtenBefore u 21 r = true → Means t p mc r (valuesAfter u 21 e r) := by
  have primitive : u = .dbl ∨ u = .add := which.imp And.right And.right
  have length : romLength u = 21 := by obtain rfl | rfl := primitive <;> rfl
  have start : Start (primitiveEntry c u s) p mc ins e :=
    { quiet := q.inputs
      entry := rfl
      injected := q.inv.not_injected
      config := ⟨config.modulus, config.constant, config.good⟩
      supplied := supplied
      represents := fun r hr => (inputs r hr).2.of_same rfl (by
        rw [primitiveEntry, RegFile_get_dropScratch, (inputs r hr).1]; rfl)
      invertible := fun n dst sa sb fields => absurd rfl (primitive_not_inv primitive fields) }
  obtain ⟨w, ran, upc, progress⟩ := start.run_microprogram (show romLength u ≠ 0 by omega)
  have ran : run 22 (issue c s) = .next (microprogramEnd w) := by
    rw [run_succ, step_issue_primitive q config which]
    rw [show romLength (primitiveEntry c u s).unit = 21 from length] at ran
    exact ran
  rw [microprogramEnd_of_progress q which progress upc] at ran
  refine ⟨_, ran, rfl, fun r scratch unwritten => ?kept, fun r written => ?means⟩
  case kept =>
    calc w.regs.get r = s.regs.dropScratch.get r := progress.kept r (by rw [← unwritten, ← length]; rfl)
      _ = s.regs.get r := by rw [RegFile_get_dropScratch, scratch]; rfl
  case means =>
    have represents := progress.represents r (.inr (by rw [← written, ← length]; rfl))
    have params : s.params = w.params := by rw [progress.frame]; rfl
    have value : valuesAfter u (romLength u) e r = valuesAfter u 21 e r := by rw [length]
    rw [← value]
    exact (represents_iff (ne_one_of_writtenBefore written)).mp (represents.of_same params rfl)

/-! ## The closed form of the doubling (R92, R96) -/

/-- A Point and an addend as the values of the registers; `ONE` is 1, and the other registers count for nothing. -/
def startValues {F : Type} [CommRing F] (c : Coordinates F) (ax ay : F) : Reg → F
  | .x => c.x
  | .y => c.y
  | .z => c.z
  | .z2 => c.z2
  | .z3 => c.z3
  | .ax => ax
  | .ay => ay
  | .one => 1
  | _ => 0

/-- The values of the Point registers. -/
def coordinatesOf {F : Type} (e : Reg → F) : Coordinates F :=
  { x := e .x, y := e .y, z := e .z, z2 := e .z2, z3 := e .z3 }

/-- The values of the scratch registers. -/
def scratchOf {F : Type} (e : Reg → F) : Scratch F :=
  { r0 := e .r0, r1 := e .r1, r2 := e .r2, r3 := e .r3, t0 := e .t0 }

section Values
variable {F : Type} [CommRing F] [Inv F]

theorem assign_apply (e : Reg → F) (k : OpKind) (dst sa : Reg) (sb : Option Reg) (r : Reg) :
    assign e (k, dst, sa, sb) r = if r = dst then fieldOp k (e sa) (e (sb.getD sa)) else e r := by
  simp [assign, Function.update_apply]

/-- The slots of `ROM.DBL` compute the closed form, on any commutative ring (R92). -/
theorem coordinatesOf_dbl (c : Coordinates F) (ax ay : F) :
    coordinatesOf (valuesAfter .dbl 21 (startValues c ax ay)) = doubled c := by
  simp only [coordinatesOf, valuesAfter, slotsBefore_dbl, List.foldl_cons, List.foldl_nil, assign_apply,
    Option.getD_some, reduceCtorEq, if_true, if_false, fieldOp, startValues, doubled, Coordinates.mk.injEq]
  refine ⟨?x, ?y, ?z, ?z2, ?z3⟩ <;> ring

/-- What they leave in the scratch registers (R96). -/
theorem scratchOf_dbl (c : Coordinates F) (ax ay : F) :
    scratchOf (valuesAfter .dbl 21 (startValues c ax ay)) = doubledScratch c := by
  simp only [scratchOf, valuesAfter, slotsBefore_dbl, List.foldl_cons, List.foldl_nil, assign_apply,
    Option.getD_some, reduceCtorEq, if_true, if_false, fieldOp, startValues, doubledScratch, Scratch.mk.injEq]
  refine ⟨?r0, ?r1, ?r2, ?r3, ?t0⟩ <;> ring

end Values

theorem pointMeans_coordinatesOf {s : State} {p mc : Nat} {e : Reg → ZMod p}
    (h : ∀ r, r.isPoint = true → Means s p mc r (e r)) : PointMeans s p mc (coordinatesOf e) :=
  ⟨h .x rfl, h .y rfl, h .z rfl, h .z2 rfl, h .z3 rfl⟩

theorem scratchMeans_scratchOf {s : State} {p mc : Nat} {e : Reg → ZMod p}
    (h : ∀ r, r.isScratch = true → Means s p mc r (e r)) : ScratchMeans s p mc (scratchOf e) :=
  ⟨h .r0 rfl, h .r1 rfl, h .r2 rfl, h .r3 rfl, h .t0 rfl⟩

/-- The doubling writes the Point and the scratch registers and no others (R93). -/
theorem writtenBefore_dbl (r : Reg) : writtenBefore .dbl 21 r = (r.isPoint || r.isScratch) := by
  cases r <;> decide

/-- Settles O47: the run of the primitive, and the values its slots compute. -/
theorem doublingCommandComputesItsClosedForm : Obligations.DoublingCommandComputesItsClosedForm := by
  intro s p mc c q config hx hy hz hz2
  have input : ∀ {r}, r ≠ .one ∧ r.isScratch = false → Means s p mc r (startValues c 0 0 r) →
      r.isScratch = false ∧ Represents s p mc r (startValues c 0 0 r) :=
    fun hr means => ⟨hr.2, (represents_iff hr.1).mpr means⟩
  have inputs : ∀ r ∈ [Reg.x, .y, .z, .z2], r.isScratch = false ∧ Represents s p mc r (startValues c 0 0 r) := by
    simp only [List.forall_mem_cons]
    exact ⟨input (by decide) hx, input (by decide) hy, input (by decide) hz, input (by decide) hz2,
      List.forall_mem_nil _⟩
  obtain ⟨t, ran, frame, kept, means⟩ := run_primitive q config (.inl ⟨rfl, rfl⟩) supplied_dbl inputs
  have written : ∀ r, r.isPoint = true ∨ r.isScratch = true →
      Means t p mc r (valuesAfter .dbl 21 (startValues c 0 0) r) := fun r hr =>
    means r (by rw [writtenBefore_dbl, Bool.or_eq_true]; exact hr)
  refine ⟨t, ran, ?point, ?scratch, fun r hr => ?same, frame⟩
  case point => exact coordinatesOf_dbl c 0 0 ▸ pointMeans_coordinatesOf fun r hr => written r (.inl hr)
  case scratch => exact scratchOf_dbl c 0 0 ▸ scratchMeans_scratchOf fun r hr => written r (.inr hr)
  case same =>
    have other : ∀ r ∈ [Reg.ax, .ay, .xa, .ya], r.isScratch = false ∧ r.isPoint = false := by decide
    obtain ⟨scratch, point⟩ := other r hr
    exact kept r scratch (by rw [writtenBefore_dbl, point, scratch]; rfl)

/-! ## The generic case (R94) -/

/-- The closed form of the doubling projects to the affine double with `a = -3`. -/
theorem doubled_affine {F : Type} [Field F] (two : (2 : F) ≠ 0) {c : Coordinates F} (hz2 : c.z2 = c.z ^ 2)
    (hz : c.z ≠ 0) (hy : c.y ≠ 0) :
    let x := c.x / c.z ^ 2
    let y := c.y / c.z ^ 3
    let l := (3 * x ^ 2 - 3) / (2 * y)
    (doubled c).x / (doubled c).z ^ 2 = l ^ 2 - 2 * x ∧
      (doubled c).y / (doubled c).z ^ 3 = l * (x - (l ^ 2 - 2 * x)) - y := by
  simp only [doubled, hz2]
  constructor
  · field_simp
    ring
  · field_simp
    ring

/-- Settles O49. -/
theorem genericDoublingIsTheAffineLaw : Obligations.GenericDoublingIsTheAffineLaw := by
  intro s p mc c _ q config point hz2 hz hy
  obtain ⟨t, ran, point', -⟩ :=
    doublingCommandComputesItsClosedForm s p mc c q config point.x point.y point.z point.z2
  obtain ⟨-, h3, -⟩ := (goodModulus_iff _ _).mp config.good
  have two : (2 : ZMod p) ≠ 0 := by
    rw [← Nat.cast_ofNat, Ne, ZMod.natCast_eq_zero_iff]
    exact Nat.not_dvd_of_pos_of_lt (by decide) (by omega)
  exact ⟨t, doubled c, ran, point', mul_ne_zero (mul_ne_zero two hy) hz, rfl, rfl, doubled_affine two hz2 hz hy⟩

end Sys2Proof.Proofs
end

section
/-!
Command `ADD` as a function: the listing of `ROM.ADD` (R99), its closed form on any written, canonical operands (R100,
R107, R137), and the affine addition that it is in the generic case (R105).
-/

namespace Sys2Proof.Proofs

open Sys2Proof.Machine Sys2Proof.Laws

/-! ## The closed form of the addition (R100, R107) -/

/-- The listing of the addition (R99). -/
theorem slotsBefore_add : slotsBefore .add 21 =
    [(.mul, .r0, .ax, some .z2), (.mul, .r1, .ay, some .z3), (.sub, .r0, .r0, some .x), (.copy, .t0, .r1, none),
     (.add, .r2, .y, some .y), (.mul, .r3, .r0, some .r0), (.mul, .z, .z, some .r0), (.mul, .r2, .r0, some .r3),
     (.mul, .x, .x, some .r3), (.mul, .z2, .z, some .z), (.add, .r1, .x, some .x), (.add, .r0, .r2, some .r1),
     (.mul, .r1, .y, some .r2), (.sub, .t0, .t0, some .y), (.mul, .r2, .t0, some .t0), (.sub, .r3, .r2, some .r0),
     (.sub, .x, .x, some .r3), (.mul, .r0, .t0, some .x), (.sub, .y, .r0, some .r1), (.mul, .z3, .z, some .z2),
     (.copy, .x, .r3, none)] := rfl

section Values
variable {F : Type} [CommRing F] [Inv F]

/-- The slots of `ROM.ADD` compute the closed form, on any commutative ring (R100). -/
theorem coordinatesOf_add (c : Coordinates F) (ax ay : F) :
    coordinatesOf (valuesAfter .add 21 (startValues c ax ay)) = added c ax ay := by
  simp only [coordinatesOf, valuesAfter, slotsBefore_add, List.foldl_cons, List.foldl_nil, assign_apply,
    Option.getD_some, reduceCtorEq, if_true, if_false, fieldOp, startValues, added, Coordinates.mk.injEq, true_and]
  refine ⟨?x, ?y, ?z2, ?z3⟩ <;> ring

/-- What they leave in the scratch registers (R107). -/
theorem scratchOf_add (c : Coordinates F) (ax ay : F) :
    scratchOf (valuesAfter .add 21 (startValues c ax ay)) = addedScratch c ax ay := by
  simp only [scratchOf, valuesAfter, slotsBefore_add, List.foldl_cons, List.foldl_nil, assign_apply,
    Option.getD_some, reduceCtorEq, if_true, if_false, fieldOp, startValues, addedScratch, Scratch.mk.injEq,
    and_true]
  refine ⟨?r0, ?r1, ?r2, ?r3⟩ <;> ring

end Values

/-- The addition writes the Point and the scratch registers and no others (R102). -/
theorem writtenBefore_add (r : Reg) : writtenBefore .add 21 r = (r.isPoint || r.isScratch) := by
  cases r <;> decide

/-- A Point and an addend that are written and canonical are the inputs of `run_primitive` for `ADD`. -/
theorem represents_startValues {s : State} {p mc : Nat} {c : Coordinates (ZMod p)} {ax ay : ZMod p}
    (point : PointMeans s p mc c) (hax : Means s p mc .ax ax) (hay : Means s p mc .ay ay) :
    ∀ r ∈ [Reg.x, .y, .z, .z2, .z3, .ax, .ay],
      r.isScratch = false ∧ Represents s p mc r (startValues c ax ay r) := by
  have stored : ∀ r ∈ [Reg.x, .y, .z, .z2, .z3, .ax, .ay], r ≠ .one ∧ r.isScratch = false := by decide
  have means : ∀ r ∈ [Reg.x, .y, .z, .z2, .z3, .ax, .ay], Means s p mc r (startValues c ax ay r) := by
    simp only [List.forall_mem_cons]
    exact ⟨point.x, point.y, point.z, point.z2, point.z3, hax, hay, List.forall_mem_nil _⟩
  exact fun r hr => ⟨(stored r hr).2, (represents_iff (stored r hr).1).mpr (means r hr)⟩

/-- Settles O48: the run of the primitive, and the values its slots compute. -/
theorem additionCommandComputesItsClosedForm : Obligations.AdditionCommandComputesItsClosedForm := by
  intro s p mc c ax ay q config point hax hay
  obtain ⟨t, ran, frame, kept, means⟩ :=
    run_primitive q config (.inr ⟨rfl, rfl⟩) supplied_add (represents_startValues point hax hay)
  have written : ∀ r, (r.isPoint || r.isScratch) = true →
      Means t p mc r (valuesAfter .add 21 (startValues c ax ay) r) := fun r hr =>
    means r (by rw [writtenBefore_add, hr])
  refine ⟨t, ran, ?point, ?scratch, fun r hr => ?same, frame⟩
  case point =>
    exact coordinatesOf_add c ax ay ▸ pointMeans_coordinatesOf fun r hr => written r (by rw [hr, Bool.true_or])
  case scratch =>
    exact scratchOf_add c ax ay ▸ scratchMeans_scratchOf fun r hr => written r (by rw [hr, Bool.or_true])
  case same =>
    have other : ∀ r ∈ [Reg.ax, .ay, .xa, .ya], r.isScratch = false ∧ (r.isPoint || r.isScratch) = false := by decide
    obtain ⟨scratch, unwritten⟩ := other r hr
    exact kept r scratch (by rw [writtenBefore_add, unwritten])

/-! ## The generic case (R105) -/

/-- The Jacobian Point with the affine coordinates `x`, `y` at the coordinate `z`, with the invariant of R104. -/
def scaled {F : Type} [CommRing F] (x y z : F) : Coordinates F :=
  { x := x * z ^ 2, y := y * z ^ 3, z := z, z2 := z ^ 2, z3 := z ^ 3 }

/-- A Point that satisfies the invariant is the scaling of its own projection. -/
theorem scaled_projection {F : Type} [Field F] {c : Coordinates F} (hz2 : c.z2 = c.z ^ 2) (hz3 : c.z3 = c.z ^ 3)
    (hz : c.z ≠ 0) : c = scaled (c.x / c.z ^ 2) (c.y / c.z ^ 3) c.z := by
  rw [scaled, div_mul_cancel₀ _ (pow_ne_zero 2 hz), div_mul_cancel₀ _ (pow_ne_zero 3 hz), ← hz2, ← hz3]

section Affine
variable {F : Type} [Field F] {x y z ax ay : F}

/-- The addition multiplies `Z` by `H`, which is the difference of the two `x` scaled (R100). -/
theorem added_scaled_z (x y z ax ay : F) : (added (scaled x y z) ax ay).z = z ^ 3 * (ax - x) := by
  simp only [added, scaled]
  ring

/-- The addition of a scaled Point projects to the affine sum, when the two points differ in `x`. -/
theorem added_scaled_affine (hz : z ≠ 0) (apart : ax - x ≠ 0) :
    let l := (ay - y) / (ax - x)
    (added (scaled x y z) ax ay).x / (added (scaled x y z) ax ay).z ^ 2 = l ^ 2 - x - ax ∧
      (added (scaled x y z) ax ay).y / (added (scaled x y z) ax ay).z ^ 3 = l * (x - (l ^ 2 - x - ax)) - y := by
  rw [added_scaled_z]
  simp only [added, scaled]
  constructor
  · field_simp
    ring
  · field_simp
    ring

end Affine

/-- Settles O50. -/
theorem genericAdditionIsTheAffineLaw : Obligations.GenericAdditionIsTheAffineLaw := by
  intro s p mc c ax ay _ q config point hax hay hz2 hz3 hz differ
  obtain ⟨t, ran, point', -⟩ := additionCommandComputesItsClosedForm s p mc c ax ay q config point hax hay
  have apart : ax - c.x / c.z ^ 2 ≠ 0 := sub_ne_zero.mpr (Ne.symm differ)
  have projected := scaled_projection hz2 hz3 hz
  have nonzero : (added c ax ay).z ≠ 0 := by
    rw [projected, added_scaled_z]
    exact mul_ne_zero (pow_ne_zero 3 hz) apart
  have affine := added_scaled_affine (y := c.y / c.z ^ 3) (ay := ay) hz apart
  rw [← projected] at affine
  exact ⟨t, added c ax ay, ran, point', nonzero, rfl, rfl, affine⟩

end Sys2Proof.Proofs
end

section
/-!
The rows of `ROM.INIT` and of the converter, the ROMs' listings, and the steps of the scalar driver that issue no field
operation: the fetch step with the symbols it decides on, and the `FIN` step (R109 to R115, `43_scalar_multiplier.md`).
-/

namespace Sys2Proof.Proofs

open Sys2Proof.Machine Sys2Proof.Laws

/-! ## The ROMs (R91, R99, R109, R125, R126) -/

/-- Settles O20: what holds of a row of any ROM. -/
theorem initAndConverterRowsComplete : Obligations.InitAndConverterRowsComplete := by
  intro s u i k op dst sa sb p mc a b c _ row fields hp hmc ra rb result
  exact exec_romRow_done row fields hp hmc ra rb result

/-- Settles O5, one ROM at a time. -/
theorem romWordsDecodeToTheListings : Obligations.RomWordsDecodeToTheListings :=
  ⟨rfl, rfl, rfl, rfl, rfl⟩

/-! ## The symbols (R111 to R114) -/

/-- A digit is loaded into `CUR` and starts the doubling (R112, R113). -/
theorem exec_digit {c : Symbol} (digit : c = 0x30#8 ∨ c = 0x31#8) (s : State) :
    exec (decodeSymbol c) s = .next { s with cur := c, regs := s.regs.dropScratch, unit := .dbl, upc := 0 } := by
  obtain rfl | rfl := digit <;> rfl

/-- A malformed symbol is loaded into `CUR` and raises its error class (R114). -/
theorem exec_symMalformed_eq (c : Symbol) (s : State) :
    exec (.symMalformed c) s = .next { s with cur := c, status := s.status ||| 0x04#8, unit := .fin } := rfl

/-- Any other symbol than the two digits is malformed (R67). -/
theorem decodeSymbol_malformed {c : Symbol} (not0 : c ≠ 0x30#8) (not1 : c ≠ 0x31#8) :
    decodeSymbol c = .symMalformed c := by
  rw [decodeSymbol, if_neg not0, if_neg not1]

/-- Settles O26. -/
theorem symbolsDecideTheDigit : Obligations.SymbolsDecideTheDigit := fun s =>
  ⟨exec_digit (.inl rfl) s, exec_digit (.inr rfl) s, fun c => exec_symMalformed_eq c s⟩

/-! ## The fetch step (R111) -/

/-- The fetch step with a symbol to decide on runs that symbol's row (R42, R111). -/
theorem step_fetch_symbol {s : State} {c : Symbol} (hu : s.unit = .fetch) (hi : s.inputs = [])
    (left : s.dpos.toNat < s.len.toNat) (below : s.dpos.toNat < s.params.ndig)
    (symbol : Memory.read s.dig s.dpos.toNat = some c) : step s = exec (decodeSymbol c) s := by
  rw [step_nil hi, sequencerStep_fetch hu, if_pos left, readDigit_ok.mpr ⟨below, symbol⟩]

/-- A read of an entry of `DIG` that nothing has written (R42, R160). -/
theorem readDigit_unwritten {i : Nat} {s : State} (below : i < s.params.ndig) (unwritten : Memory.read s.dig i = none) :
    readDigit i s = .error (.unwrittenRead (.dig i)) := by
  rw [readDigit, if_pos below, unwritten]

/-- Settles O27: the branches of the fetch step. -/
theorem fetchStepFollowsTheDigit : Obligations.FetchStepFollowsTheDigit := by
  intro s hu hi
  refine ⟨fun ended => ?_, fun left below =>
    ⟨fun c symbol digit => ?_, fun c symbol not0 not1 => ?_, fun unwritten => ?_⟩⟩
  · rw [step_nil hi, sequencerStep_fetch hu, if_neg (Nat.not_lt.mpr ended)]
    rfl
  · rw [step_fetch_symbol hu hi left below symbol, exec_digit digit]
  · rw [step_fetch_symbol hu hi left below symbol, decodeSymbol_malformed not0 not1, exec_symMalformed_eq]
  · rw [step_nil hi, sequencerStep_fetch hu, if_pos left, readDigit_unwritten below unwritten]

/-! ## The `FIN` step (R115) -/

/-- The symbol that the `FIN` step latches: the last of the string, or 0x00 for an empty one (R115). -/
def LastSymbol (s : State) (c : Symbol) : Prop :=
  (s.len = 0#16 ∧ c = 0x00#8) ∨
    (1 ≤ s.len.toNat ∧ s.len.toNat ≤ s.params.ndig ∧ Memory.read s.dig (s.len.toNat - 1) = some c)

theorem finStep_of_lastSymbol {s : State} {c : Symbol} (last : LastSymbol s c) :
    finStep s = .next (afterFin (setLastd c s)) := by
  obtain ⟨empty, rfl⟩ | ⟨positive, fits, symbol⟩ := last
  · rw [finStep, if_pos empty]
  · have nonempty : s.len ≠ 0#16 := by
      intro empty
      simp [empty] at positive
    rw [finStep, if_neg nonempty, readDigit_ok.mpr ⟨by omega, symbol⟩]

/-- Settles O28: the latch, and then the two continuations of R142 and R148. -/
theorem finStepLatchesAndContinues : Obligations.FinStepLatchesAndContinues := by
  intro s c hu hi last
  rw [step_nil hi, sequencerStep_fin hu, finStep_of_lastSymbol last]
  by_cases converts : s.cmdr = 0x05#8 ∧ (flag .errDigit s = false ∨ s.params.policy = .normalizePartial)
  · rw [if_pos converts, afterFin_converter (s := setLastd c s) converts.1 converts.2]
    rfl
  · rw [if_neg converts, afterFin_finish (s := setLastd c s) converts, finish_eq, finish_status_eq]
    rfl

end Sys2Proof.Proofs
end

section
/-!
The scalar driver as a run: from the accept step of `SMUL` or `KP` through `INIT` and the digits of the string to the
`FIN` step (R109 to R115, R118, R135, R142), and command `SMUL` as a function (R138, R145).
-/

namespace Sys2Proof.Proofs

open Sys2Proof.Machine Sys2Proof.Laws

/-! ## Registers that mean given elements -/

theorem means_of_same {s t : State} {p mc : Nat} {r : Reg} {e : ZMod p} (h : Means s p mc r e)
    (params : t.params = s.params) (same : t.regs.get r = s.regs.get r) : Means t p mc r e := by
  obtain ⟨v, hv, canonical, value⟩ := h
  exact ⟨v, same.trans hv, canonical, params ▸ value⟩

theorem pointMeans_of_same {s t : State} {p mc : Nat} {c : Coordinates (ZMod p)} (h : PointMeans s p mc c)
    (params : t.params = s.params) (same : ∀ r, r.isPoint = true → t.regs.get r = s.regs.get r) :
    PointMeans t p mc c :=
  ⟨means_of_same h.x params (same .x rfl), means_of_same h.y params (same .y rfl),
    means_of_same h.z params (same .z rfl), means_of_same h.z2 params (same .z2 rfl),
    means_of_same h.z3 params (same .z3 rfl)⟩

theorem sameRegs_trans {rs : List Reg} {s t u : State} (h : SameRegs rs s t) (h' : SameRegs rs t u) :
    SameRegs rs s u := fun r hr => (h' r hr).trans (h r hr)

/-- The invalidation of the scratch registers leaves the others (R16). -/
theorem sameRegs_of_dropScratch {rs : List Reg} (stored : ∀ r ∈ rs, r.isScratch = false) {s t : State}
    (regs : t.regs = s.regs.dropScratch) : SameRegs rs s t := fun r hr => by
  rw [regs, RegFile_get_dropScratch, stored r hr]
  rfl

theorem isScratch_of_isPoint {r : Reg} (h : r.isPoint = true) : r.isScratch = false := isScratch_of_point (.inl h)

/-! ## A core that a primitive can run on -/

/-- The sequencer is at the first step of a unit with the accumulator at `c` and the addend at `ax`, `ay`, and the host
asks nothing. -/
structure Loaded (s : State) (p mc : Nat) (c : Coordinates (ZMod p)) (ax ay : ZMod p) : Prop where
  quiet : s.inputs = []
  entry : s.upc = 0
  injected : s.injected = none
  config : Configured s p mc
  point : PointMeans s p mc c
  x : Means s p mc .ax ax
  y : Means s p mc .ay ay

section Loaded
variable {s t : State} {p mc : Nat} {c c' : Coordinates (ZMod p)} {ax ay : ZMod p}

/-- A state that differs in the sequencer's registers and in an accumulator that means `c'`. -/
theorem Loaded.of_frame (h : Loaded s p mc c ax ay) (entry : t.upc = 0) (point : PointMeans t p mc c')
    (same : SameRegs [.ax, .ay, .xa, .ya] s t)
    (frame : t = { s with regs := t.regs, dpos := t.dpos, lastd := t.lastd, status := t.status, unit := t.unit
                          upc := t.upc, cur := t.cur, trace := t.trace }) : Loaded t p mc c' ax ay where
  quiet := by rw [frame]; exact h.quiet
  entry := entry
  injected := by rw [frame]; exact h.injected
  config := by rw [frame]; exact ⟨h.config.modulus, h.config.constant, h.config.good⟩
  point := point
  x := means_of_same h.x (by rw [frame]) (same .ax (by decide))
  y := means_of_same h.y (by rw [frame]) (same .ay (by decide))

/-- The entry of a primitive invalidates the scratch registers and keeps the rest (R16). -/
theorem Loaded.enter (h : Loaded s p mc c ax ay) (u : SeqUnit) (d : Symbol) :
    Loaded { s with cur := d, regs := s.regs.dropScratch, unit := u, upc := 0 } p mc c ax ay :=
  h.of_frame rfl (pointMeans_of_same h.point rfl fun r hr => by
      rw [RegFile_get_dropScratch, isScratch_of_isPoint hr]; rfl)
    (sameRegs_of_dropScratch (by decide) rfl) rfl

/-- Both primitives write the Point and the scratch registers and no others (R93, R102). -/
theorem primitive_writtenBefore {u : SeqUnit} (hu : u = .dbl ∨ u = .add) (r : Reg) :
    writtenBefore u (romLength u) r = (r.isPoint || r.isScratch) := by
  obtain rfl | rfl := hu
  · exact writtenBefore_dbl r
  · exact writtenBefore_add r

/-- A primitive runs to its transition: the accumulator is at the values of its slots, and nothing else has changed but
the scratch registers and the trace. -/
theorem Loaded.run_primitive (h : Loaded s p mc c ax ay) (hu : s.unit = .dbl ∨ s.unit = .add) :
    ∃ w, run 21 s = .next (microprogramEnd w) ∧
      w = { s with regs := w.regs, trace := s.trace ++ romEvents s.unit } ∧
      PointMeans w p mc (coordinatesOf (valuesAfter s.unit 21 (startValues c ax ay))) ∧
      SameRegs [.ax, .ay, .xa, .ya] s w := by
  have length : romLength s.unit = 21 := by obtain hu | hu := hu <;> rw [hu] <;> rfl
  have start : Start s p mc [.x, .y, .z, .z2, .z3, .ax, .ay] (startValues c ax ay) :=
    { quiet := h.quiet
      entry := h.entry
      injected := h.injected
      config := h.config
      supplied := supplied_primitive hu
      represents := fun r hr => (represents_startValues h.point h.x h.y r hr).2
      invertible := fun n dst sa sb fields => absurd rfl (primitive_not_inv hu fields) }
  obtain ⟨w, ran, upc, progress⟩ := start.run_microprogram (by omega)
  rw [length] at ran
  refine ⟨w, ran, ?frame, pointMeans_coordinatesOf fun r hr => ?point, fun r hr => progress.kept r ?same⟩
  case frame =>
    have frame := progress.frame
    rw [upc, ← h.entry] at frame
    exact frame
  case point =>
    have written : writtenBefore s.unit (romLength s.unit) r = true := by
      rw [primitive_writtenBefore hu, hr]; rfl
    have represents := progress.represents r (.inr written)
    rw [length] at represents
    exact (represents_iff (ne_one_of_writtenBefore written)).mp represents
  case same =>
    have other : ∀ r ∈ [Reg.ax, .ay, .xa, .ya], (r.isPoint || r.isScratch) = false := by decide
    rw [primitive_writtenBefore hu, other r hr]

end Loaded

/-! ## The accept step of the driver's commands (R135) -/

/-- The codes of `SMUL` and `KP` (R138, R140). -/
def DriverCode (code : Nat) : Prop := code = 0x03 ∨ code = 0x05

/-- A core at the entry of `INIT` (R135). -/
def driverEntry (code : Nat) (s : State) : State :=
  { s with status := 0x01#8, cmdr := BitVec.ofNat 8 code, unit := .init, upc := 0, reply := .done }

/-- The accept step of `SMUL` and `KP`, with the whole next state. -/
theorem accept_driver {s : State} {p mc : Nat} (config : Configured s p mc) (fits : s.len.toNat ≤ s.params.ndig)
    (free : flag .busy s = false) (c : Code) :
    accept c checkDriver (fun t => setUpc 0 (setUnit .init t)) s = .next { s with
      status := (s.status &&& 0x80#8) ||| 0x01#8, cmdr := c, unit := .init, upc := 0, reply := .done } := by
  have check : checkDriver (takeCommand c s) = none :=
    checkDriver_none.mpr ⟨checkModulus_none.mpr ⟨p, mc, config.modulus, config.constant, config.good⟩, fits⟩
  have accepted : accept c checkDriver (fun t => setUpc 0 (setUnit .init t)) s =
      .next (setUpc 0 (setUnit .init (setFlag .busy true (takeCommand c s)))) :=
    accept_next.mpr (.inr ⟨free, check, rfl⟩)
  rw [accepted, takeCommand_eq, setFlag_eq, accepted_status_eq]
  rfl

theorem step_issue_driver {s : State} {p mc code : Nat} (q : Quiet s) (config : Configured s p mc)
    (fits : s.len.toNat ≤ s.params.ndig) (which : DriverCode code) :
    step (issue code s) = .next (driverEntry code s) := by
  have accepted := accept_driver config fits (not_busy_of_quiet q)
  simp only [accepted_status_of_quiet q] at accepted
  obtain rfl | rfl := which
  · have smul : exec .cmdSmul s = .next (driverEntry 0x03 s) := by
      rw [exec_cmdSmul, execCmdSmul, accepted]
      rfl
    exact step_issue q (by decide) smul
  · have kp : exec .cmdKp s = .next (driverEntry 0x05 s) := by
      rw [exec_cmdKp, execCmdKp, accepted]
      rfl
    exact step_issue q (by decide) kp

/-! ## `INIT` (R109, R110) -/

/-- The listing of `ROM.INIT` (R109). -/
theorem slotsBefore_init : slotsBefore .init 5 =
    [(.copy, .x, .ax, none), (.copy, .y, .ay, none), (.copy, .z, .one, none), (.copy, .z2, .one, none),
     (.copy, .z3, .one, none)] := rfl

/-- The inputs of `INIT` are the addend and `ONE`. -/
theorem supplied_init : Supplied [.ax, .ay, .one] .init := by
  intro k hk r
  revert k
  cases r <;> decide

theorem writtenBefore_init (r : Reg) : writtenBefore .init 5 r = r.isPoint := by
  cases r <;> decide

theorem init_not_inv {n : Nat} {op : OpKind} {dst sa : Reg} {sb : Option Reg}
    (fields : slotFields .init n = some (op, dst, sa, sb)) : op ≠ .inv := by
  have listed : ∀ k < 5, ∀ f ∈ slotFields .init k, f.1 ≠ .inv := by decide
  exact listed n (lt_of_slotFields fields) _ fields

/-- The slots of `INIT` lift the base point, whatever the Point was. -/
theorem coordinatesOf_init {F : Type} [CommRing F] [Inv F] (c : Coordinates F) (ax ay : F) :
    coordinatesOf (valuesAfter .init 5 (startValues c ax ay)) = lifted ax ay := by
  simp [coordinatesOf, valuesAfter, slotsBefore_init, assign_apply, fieldOp, startValues, lifted]

/-- `ONE` is written once `P` and `MC` are, and it represents 1 (R19, R85). -/
theorem represents_one {s : State} {p mc : Nat} (config : Configured s p mc) : Represents s p mc .one 1 := by
  obtain ⟨prime, h3, -⟩ := (goodModulus_iff _ _).mp config.good
  have := Fact.mk prime
  exact ⟨fpOne s.params p mc, ⟨fpOne_lt s.params mc (by omega), rfl⟩, fieldOf_one s.params mc h3⟩

/-! ## The digits (R111 to R113) -/

/-- The driver that the code `code` started at `s` has processed the first `m` digits: the accumulator is driven through
them, `DPOS` and the trace tell it, and nothing else has changed but the scratch registers and the registers that the
next steps set. -/
structure Driven (s : State) (code p mc : Nat) (ax ay : ZMod p) (m : Nat) (t : State) : Prop where
  frame : t = { s with
    regs := t.regs, dpos := BitVec.ofNat 16 (1 + m), lastd := t.lastd, status := t.status, unit := t.unit, upc := 0
    cmdr := BitVec.ofNat 8 code, cur := t.cur, trace := s.trace ++ (romEvents .init ++ digitEvents s.dig m)
    reply := .done }
  point : PointMeans t p mc (driven s.dig ax ay m)
  same : SameRegs [.ax, .ay, .xa, .ya] s t

section Driver
variable {s t u : State} {code p mc m : Nat} {ax ay : ZMod p} {last : Symbol}

/-- The steps of the driver between the microprograms set the sequencer's registers alone. -/
theorem Driven.of_frame (h : Driven s code p mc ax ay m t)
    (frame : u = { t with lastd := u.lastd, status := u.status, unit := u.unit, cur := u.cur }) :
    Driven s code p mc ax ay m u where
  frame := by rw [frame, h.frame]
  point := pointMeans_of_same h.point (by rw [frame]) fun r _ => by rw [frame]
  same := sameRegs_trans h.same fun r _ => by rw [frame]

/-- The driver leaves the parameters and the string. -/
theorem Driven.string (h : Driven s code p mc ax ay m t) : t.params = s.params ∧ t.len = s.len ∧ t.dig = s.dig := by
  rw [h.frame]
  exact ⟨rfl, rfl, rfl⟩

/-- The driver's accumulator can be doubled and added to. -/
theorem Driven.loaded (h : Driven s code p mc ax ay m t) (q : Quiet s) (config : Configured s p mc)
    (x : Means s p mc .ax ax) (y : Means s p mc .ay ay) : Loaded t p mc (driven s.dig ax ay m) ax ay where
  quiet := by rw [h.frame]; exact q.inputs
  entry := by rw [h.frame]
  injected := by rw [h.frame]; exact q.inv.not_injected
  config := by rw [h.frame]; exact ⟨config.modulus, config.constant, config.good⟩
  point := h.point
  x := means_of_same x (by rw [h.frame]) (h.same .ax (by decide))
  y := means_of_same y (by rw [h.frame]) (h.same .ay (by decide))

/-- After the accept step and the five slots of `INIT` the driver is at its first fetch (R109, R110). -/
theorem run_init (q : Quiet s) (config : Configured s p mc) (x : Means s p mc .ax ax) (y : Means s p mc .ay ay)
    (which : DriverCode code) (fits : s.len.toNat ≤ s.params.ndig) :
    ∃ t, run 6 (issue code s) = .next t ∧ t.unit = .fetch ∧ t.status = 0x01#8 ∧ Driven s code p mc ax ay 0 t := by
  have addend : ∀ {r e}, r ≠ .one → Means s p mc r e → Represents (driverEntry code s) p mc r e :=
    fun h means => ((represents_iff h).mpr means).of_same rfl rfl
  have start : Start (driverEntry code s) p mc [.ax, .ay, .one] (startValues (lifted ax ay) ax ay) :=
    { quiet := q.inputs
      entry := rfl
      injected := q.inv.not_injected
      config := ⟨config.modulus, config.constant, config.good⟩
      supplied := supplied_init
      represents := by
        simp only [List.forall_mem_cons]
        exact ⟨addend (by decide) x, addend (by decide) y, (represents_one config).of_same rfl rfl,
          List.forall_mem_nil _⟩
      invertible := fun n dst sa sb fields => absurd rfl (init_not_inv fields) }
  obtain ⟨w, ran, upc, progress⟩ := start.run_microprogram (show romLength .init ≠ 0 by decide)
  have unit : w.unit = .init := by rw [progress.frame]; rfl
  have final : microprogramEnd w = { w with unit := .fetch, dpos := 1#16 } := by simp only [microprogramEnd, unit]
  refine ⟨_, by rw [run_succ, step_issue_driver q config fits which]; exact ran, ?_⟩
  rw [final]
  refine ⟨rfl, by rw [progress.frame]; rfl, ?frame, ?point, fun r hr => ?same⟩
  case frame =>
    have frame := progress.frame
    rw [upc] at frame
    rw [frame]
    rfl
  case point =>
    rw [driven, ← coordinatesOf_init (lifted ax ay) ax ay]
    refine pointMeans_coordinatesOf fun r hr => ?_
    have written : writtenBefore .init 5 r = true := (writtenBefore_init r).trans hr
    exact (represents_iff (ne_one_of_writtenBefore written)).mp
      ((progress.represents r (.inr written)).of_same rfl rfl)
  case same =>
    have other : ∀ r ∈ [Reg.ax, .ay, .xa, .ya], r.isPoint = false := by decide
    exact progress.kept r ((writtenBefore_init r).trans (other r hr))

/-- A doubling that ends under a command of the driver hands a digit `'1'` on to the addition (R113, R142). -/
theorem microprogramEnd_one {w : State} (which : DriverCode code) (cmdr : w.cmdr = BitVec.ofNat 8 code)
    (unit : w.unit = .dbl) (one : w.cur = 0x31#8) :
    microprogramEnd w = { w with unit := .add, regs := w.regs.dropScratch } := by
  obtain rfl | rfl := which <;> simp [microprogramEnd, unit, cmdr, one]

/-- It ends a digit `'0'` (R112, R142). -/
theorem microprogramEnd_zero {w : State} (which : DriverCode code) (cmdr : w.cmdr = BitVec.ofNat 8 code)
    (unit : w.unit = .dbl) (zero : w.cur = 0x30#8) :
    microprogramEnd w = { w with unit := .fetch, dpos := w.dpos + 1#16 } := by
  obtain rfl | rfl := which <;> simp [microprogramEnd, unit, cmdr, zero]

/-- An addition under a command of the driver ends a digit (R113, R142). -/
theorem microprogramEnd_add {w : State} (which : DriverCode code) (cmdr : w.cmdr = BitVec.ofNat 8 code)
    (unit : w.unit = .add) : microprogramEnd w = { w with unit := .fetch, dpos := w.dpos + 1#16 } := by
  obtain rfl | rfl := which <;> simp [microprogramEnd, unit, cmdr]

/-- `DPOS` is the index of the next symbol, as long as the string has so many (R25). -/
theorem Driven.dpos_toNat (h : Driven s code p mc ax ay m t) (range : m + 1 ≤ max 1 s.len.toNat) :
    t.dpos.toNat = m + 1 := by
  have := s.len.isLt
  rw [h.frame, BitVec.toNat_ofNat, Nat.mod_eq_of_lt (by omega), Nat.add_comm]

/-- The end of a digit (R112, R113). -/
theorem Driven.next {w : State} (h : Driven s code p mc ax ay m t)
    (frame : w = { t with
      regs := w.regs, cur := w.cur, unit := w.unit
      trace := t.trace ++ (romEvents .dbl ++ if oneAt s.dig (m + 1) then romEvents .add else []) })
    (point : PointMeans w p mc (driven s.dig ax ay (m + 1))) (same : SameRegs [.ax, .ay, .xa, .ya] t w) :
    Driven s code p mc ax ay (m + 1) { w with unit := .fetch, dpos := w.dpos + 1#16 } where
  frame := by
    have dpos : BitVec.ofNat 16 (1 + m) + 1#16 = BitVec.ofNat 16 (1 + (m + 1)) := by
      rw [← BitVec.ofNat_add, Nat.add_assoc]
    rw [frame, h.frame, ← dpos, digitEvents]
    simp only [List.append_assoc]
  point := pointMeans_of_same point rfl fun _ _ => rfl
  same := sameRegs_trans h.same (sameRegs_trans same fun _ _ => rfl)

/-- The fetch of a digit and its doubling, up to the transition (R111, R112). -/
theorem Driven.run_doubling {d : Symbol} (h : Driven s code p mc ax ay m t)
    (loaded : Loaded t p mc (driven s.dig ax ay m) ax ay) (unit : t.unit = .fetch) (left : m + 1 < s.len.toNat)
    (fits : s.len.toNat ≤ s.params.ndig) (symbol : Memory.read s.dig (m + 1) = some d)
    (digit : d = 0x30#8 ∨ d = 0x31#8) :
    ∃ w, run 22 t = .next (microprogramEnd w) ∧
      w = { t with regs := w.regs, cur := d, unit := .dbl, trace := t.trace ++ romEvents .dbl } ∧
      PointMeans w p mc (doubled (driven s.dig ax ay m)) ∧ SameRegs [.ax, .ay, .xa, .ya] t w := by
  have dpos : t.dpos.toNat = m + 1 := h.dpos_toNat (by omega)
  obtain ⟨params, len, dig⟩ := h.string
  have fetched : step t = .next { t with cur := d, regs := t.regs.dropScratch, unit := .dbl, upc := 0 } := by
    rw [step_fetch_symbol (c := d) unit loaded.quiet (by rw [dpos, len]; exact left) (by rw [dpos, params]; omega)
      (by rw [dpos, dig]; exact symbol), exec_digit digit]
  obtain ⟨w, ran, frame, point, same⟩ := (loaded.enter .dbl d).run_primitive (.inl rfl)
  refine ⟨w, by rw [run_succ, fetched]; exact ran, ?_, coordinatesOf_dbl _ ax ay ▸ point,
    sameRegs_trans (sameRegs_of_dropScratch (by decide) rfl) same⟩
  rw [← loaded.entry] at frame
  exact frame

/-- One digit: the fetch, the doubling, and for `'1'` the addition (R111 to R113). -/
theorem Driven.run_digit (h : Driven s code p mc ax ay m t) (loaded : Loaded t p mc (driven s.dig ax ay m) ax ay)
    (which : DriverCode code) (unit : t.unit = .fetch) (left : m + 1 < s.len.toNat)
    (fits : s.len.toNat ≤ s.params.ndig)
    (digit : Memory.read s.dig (m + 1) = some 0x30#8 ∨ Memory.read s.dig (m + 1) = some 0x31#8) :
    ∃ u, run (22 + 21 * if oneAt s.dig (m + 1) then 1 else 0) t = .next u ∧ u.unit = .fetch ∧ u.status = t.status ∧
      Driven s code p mc ax ay (m + 1) u := by
  have cmdr : t.cmdr = BitVec.ofNat 8 code := by rw [h.frame]
  obtain symbol | symbol := digit
  · have zero : oneAt s.dig (m + 1) = false := by rw [oneAt, symbol]; rfl
    obtain ⟨w, ran, frame, point, same⟩ := h.run_doubling loaded unit left fits symbol (.inl rfl)
    rw [microprogramEnd_zero which (by rw [frame]; exact cmdr) (by rw [frame]) (by rw [frame])] at ran
    refine ⟨_, by rw [zero]; exact ran, rfl, by rw [frame], h.next ?_ ?_ same⟩
    · rw [frame, zero]
      simp
    · rw [driven, zero]
      exact point
  · have one : oneAt s.dig (m + 1) = true := by rw [oneAt, symbol]; rfl
    obtain ⟨w, ran, frame, point, same⟩ := h.run_doubling loaded unit left fits symbol (.inr rfl)
    have entry : w.upc = 0 := by rw [frame]; exact loaded.entry
    have loaded' := (loaded.of_frame entry point same (by rw [frame])).enter .add w.cur
    obtain ⟨v, ran', frame', point', same'⟩ := loaded'.run_primitive (.inr rfl)
    rw [microprogramEnd_one which (by rw [frame]; exact cmdr) (by rw [frame]) (by rw [frame])] at ran
    rw [← entry] at frame' ran'
    rw [microprogramEnd_add which (by rw [frame', frame]; exact cmdr) (by rw [frame'])] at ran'
    refine ⟨_, by rw [one]; exact (run_add ran 21).trans ran', rfl, by rw [frame', frame], h.next ?_ ?_ ?_⟩
    · rw [frame', frame, one]
      simp
    · rw [driven, one]
      exact coordinatesOf_add _ ax ay ▸ point'
    · exact sameRegs_trans same (sameRegs_trans (sameRegs_of_dropScratch (by decide) rfl) same')

/-- The driver after the accept step, `INIT` and `m` digits, by induction on `m`. -/
theorem run_digits (q : Quiet s) (config : Configured s p mc) (x : Means s p mc .ax ax) (y : Means s p mc .ay ay)
    (which : DriverCode code) (fits : s.len.toNat ≤ s.params.ndig) (left : m + 1 ≤ max 1 s.len.toNat)
    (digits : ∀ i, 1 ≤ i → i ≤ m → Memory.read s.dig i = some 0x30#8 ∨ Memory.read s.dig i = some 0x31#8) :
    ∃ t, run (6 + 22 * m + 21 * onesTo s.dig m) (issue code s) = .next t ∧ t.unit = .fetch ∧ t.status = 0x01#8 ∧
      Driven s code p mc ax ay m t := by
  induction m with
  | zero => exact run_init q config x y which fits
  | succ m ih =>
    obtain ⟨t, ran, unit, status, h⟩ := ih (by omega) fun i h1 hm => digits i h1 (by omega)
    obtain ⟨u, ran', unit', status', h'⟩ := h.run_digit (h.loaded q config x y) which unit (by omega) fits
      (digits (m + 1) (by omega) le_rfl)
    have steps : 6 + 22 * (m + 1) + 21 * onesTo s.dig (m + 1) =
        (6 + 22 * m + 21 * onesTo s.dig m) + (22 + 21 * if oneAt s.dig (m + 1) then 1 else 0) := by
      rw [onesTo]
      ring
    exact ⟨u, by rw [steps, run_add ran, ran'], unit', status'.trans status, h'⟩

/-! ## The end of the loop (R111, R114, R115) -/

/-- `STATUS` at the `FIN` step: whether a malformed symbol stopped the loop (R114). -/
def statusAtFin (s : State) (m : Nat) : BitVec 8 := if m + 1 < s.len.toNat then 0x05#8 else 0x01#8

/-- The fetch step that ends the loop: no symbol is left, or the next one is malformed (R111, R114). -/
theorem Driven.step_stop (h : Driven s code p mc ax ay m t) (quiet : t.inputs = []) (unit : t.unit = .fetch)
    (status : t.status = 0x01#8) (string : Processes s m last) :
    ∃ u, step t = .next u ∧ u.unit = .fin ∧ u.status = statusAtFin s m ∧ Driven s code p mc ax ay m u := by
  obtain ⟨params, len, dig⟩ := h.string
  obtain ⟨ended, fetched⟩ := fetchStepFollowsTheDigit t unit quiet
  obtain stop | ⟨left, c, symbol, not0, not1⟩ := string.stops
  · have dpos := h.dpos_toNat stop.le
    have notLeft : ¬ m + 1 < s.len.toNat := by omega
    refine ⟨_, ended (by rw [dpos, len]; omega), rfl, ?_, h.of_frame rfl⟩
    rw [statusAtFin, if_neg notLeft]
    exact status
  · have dpos : t.dpos.toNat = m + 1 := h.dpos_toNat (by omega)
    have fits := string.fits
    obtain ⟨-, malformed, -⟩ := fetched (by rw [dpos, len]; exact left) (by rw [dpos, params]; omega)
    refine ⟨_, malformed c (by rw [dig, dpos]; exact symbol) not0 not1, rfl, ?_, h.of_frame rfl⟩
    rw [statusAtFin, if_pos left, status]
    rfl

/-- The driver up to its `FIN` step. -/
theorem run_driver (q : Quiet s) (config : Configured s p mc) (x : Means s p mc .ax ax) (y : Means s p mc .ay ay)
    (which : DriverCode code) (string : Processes s m last) :
    ∃ t, run (7 + 22 * m + 21 * onesTo s.dig m) (issue code s) = .next t ∧ t.unit = .fin ∧
      t.status = statusAtFin s m ∧ Driven s code p mc ax ay m t := by
  have left : m + 1 ≤ max 1 s.len.toNat := by
    obtain stop | ⟨left, -⟩ := string.stops <;> omega
  obtain ⟨t, ran, unit, status, h⟩ := run_digits q config x y which string.fits left string.digits
  obtain ⟨u, stopped, h'⟩ := h.step_stop (h.loaded q config x y).quiet unit status string
  have steps : 7 + 22 * m + 21 * onesTo s.dig m = (6 + 22 * m + 21 * onesTo s.dig m) + 1 := by ring
  exact ⟨u, by rw [steps, run_add ran, run_one, stopped], h'⟩

/-- The symbol that the string's last entry holds is the one that the `FIN` step latches (R115). -/
theorem Driven.lastSymbol (h : Driven s code p mc ax ay m t) (string : Processes s m last) : LastSymbol t last := by
  obtain ⟨params, len, dig⟩ := h.string
  have symbol := string.last_symbol
  rw [LastSymbol, len, params, dig]
  split at symbol
  · exact .inl ⟨‹_›, symbol⟩
  · have nonempty : s.len.toNat ≠ 0 := fun h => ‹s.len ≠ 0#16› (BitVec.eq_of_toNat_eq h)
    exact .inr ⟨by omega, string.fits, symbol⟩

/-! ## Command `SMUL` (R138) -/

theorem length_romEvents :
    (romEvents .init).length = 5 ∧ (romEvents .dbl).length = 21 ∧ (romEvents .add).length = 21 :=
  ⟨rfl, rfl, rfl⟩

/-- Each digit emits the events of a doubling, and for `'1'` those of an addition (R112, R113). -/
theorem length_digitEvents (dig : Memory) (m : Nat) : (digitEvents dig m).length = 21 * m + 21 * onesTo dig m := by
  obtain ⟨-, dbl, add⟩ := length_romEvents
  induction m with
  | zero => rfl
  | succ m ih =>
    rw [digitEvents, onesTo, List.length_append, List.length_append, ih, dbl]
    cases oneAt dig (m + 1) with
    | true => simp only [if_true, add]; ring
    | false => simp only [Bool.false_eq_true, if_false, List.length_nil]; ring

/-- Settles O54: the driver up to `FIN`, and the latch with the finish. -/
theorem scalarCommandDrivesTheAccumulator : Obligations.ScalarCommandDrivesTheAccumulator := by
  intro s p mc ax ay m last q config x y string
  obtain ⟨t, ran, unit, status, h⟩ := run_driver q config x y (.inl rfl) string
  have cmdr : t.cmdr = 0x03#8 := by rw [h.frame]
  have finished := finStepLatchesAndContinues t last unit (h.loaded q config x y).quiet (h.lastSymbol string)
  rw [if_neg (by rw [cmdr]; simp)] at finished
  have steps : 8 + 22 * m + 21 * onesTo s.dig m = (7 + 22 * m + 21 * onesTo s.dig m) + 1 := by ring
  have h' : Driven s 0x03 p mc ax ay m
      { t with lastd := last, unit := .idle, upc := 0, status := (t.status &&& 0xFE#8) ||| 0x02#8 } :=
    h.of_frame (by rw [h.frame])
  refine ⟨_, by rw [steps, run_add ran, run_one, finished], h'.point, h'.same, ?length, ?frame⟩
  case length =>
    rw [h.frame]
    simp only [List.length_append, length_digitEvents, length_romEvents.1]
    ring
  case frame =>
    have byte : (statusAtFin s m &&& 0xFE#8) ||| 0x02#8 = if m + 1 < s.len.toNat then 0x06#8 else 0x02#8 := by
      rw [statusAtFin]
      split <;> rfl
    rw [← byte, ← status, ← q.idle, ← Invariant_upc_idle q.inv q.idle]
    rw [h.frame]

end Driver

end Sys2Proof.Proofs
end

section
/-!
The power-of-two property of the scalar multiplier: a first symbol and `n` zeros are `n` doublings of the lifted base
point (R120).
-/

namespace Sys2Proof.Proofs

open Sys2Proof.Machine Sys2Proof.Laws

/-! ## Commands keep the core quiet -/

/-- Every run keeps the invariant. -/
theorem Invariant_run (k : Nat) : ∀ {s t : State}, Invariant s → run k s = .next t → Invariant t := by
  induction k with
  | zero =>
    intro s t inv ran
    cases ran
    exact inv
  | succ k ih =>
    intro s t inv ran
    rw [run_succ] at ran
    cases hs : step s with
    | next u => rw [hs] at ran; exact ih (stepKeepsTheInvariant s u inv hs) ran
    | fault f => rw [hs] at ran; cases ran
    | refused r => rw [hs] at ran; cases ran

/-- A command that ends with the core idle leaves it ready for the next one. -/
theorem quiet_of_run {s t : State} {k c : Nat} (q : Quiet s) (ran : run k (issue c s) = .next t) (idle : t.unit = .idle)
    (inputs : t.inputs = []) : Quiet t where
  inv := Invariant_run k (Invariant_of_eq (t := issue c s) q.inv rfl) ran
  idle := idle
  inputs := inputs

/-! ## Repeated doubling -/

section Power
variable {s t : State} {p mc : Nat}

/-- `n` commands `DBL` iterate the closed form of the doubling, and leave the core as they found it but for what the
statement of `DBL` lists. -/
theorem exists_doubledTimes {c : Coordinates (ZMod p)} (q : Quiet s) (config : Configured s p mc)
    (point : PointMeans s p mc c) (n : Nat) :
    ∃ t, DoubledTimes n s t ∧ Quiet t ∧ Configured t p mc ∧ t.params = s.params ∧
      PointMeans t p mc (doubled^[n] c) := by
  induction n with
  | zero => exact ⟨s, rfl, q, config, rfl, point⟩
  | succ n ih =>
    obtain ⟨t, times, q', config', params, point'⟩ := ih
    obtain ⟨u, ran, point'', -, -, frame⟩ :=
      doublingCommandComputesItsClosedForm t p mc _ q' config' point'.x point'.y point'.z point'.z2
    refine ⟨u, ⟨t, times, ran⟩, quiet_of_run q' ran ?_ ?_, ?_, ?_, ?_⟩
    · rw [frame]; exact q'.idle
    · rw [frame]; exact q'.inputs
    · rw [frame]; exact ⟨config'.modulus, config'.constant, config'.good⟩
    · rw [frame]; exact params
    · rw [Function.iterate_succ_apply']
      exact point''

/-- With no digit `'1'` the driver doubles and never adds (R112). -/
theorem driven_zeros {F : Type} [CommRing F] {dig : Memory} (ax ay : F) {n : Nat}
    (zeros : ∀ i, 1 ≤ i → i ≤ n → Memory.read dig i = some 0x30#8) :
    driven dig ax ay n = doubled^[n] (lifted ax ay) ∧ onesTo dig n = 0 := by
  induction n with
  | zero => exact ⟨rfl, rfl⟩
  | succ n ih =>
    obtain ⟨iterated, none⟩ := ih fun i h1 hn => zeros i h1 (by omega)
    have zero : oneAt dig (n + 1) = false := by rw [oneAt, zeros (n + 1) (by omega) le_rfl]; rfl
    rw [driven, onesTo, zero, iterated, none, Function.iterate_succ_apply']
    exact ⟨rfl, rfl⟩

/-- A canonical value means the element it represents. -/
theorem means_of_value {v : Nat} {r : Reg} (value : s.regs.get r = .value v) (canonical : v < p) :
    Means s p mc r (fieldOf s.params p mc v) := ⟨v, value, canonical, rfl⟩

/-- Registers that mean the same element hold the same value (R85). -/
theorem get_eq_of_means {r : Reg} {e : ZMod p} (config : Configured s p mc) (params : t.params = s.params)
    (h : Means s p mc r e) (h' : Means t p mc r e) : s.regs.get r = t.regs.get r := by
  obtain ⟨prime, h3, -⟩ := (goodModulus_iff _ _).mp config.good
  have := Fact.mk prime
  obtain ⟨v, hv, canonical, value⟩ := h
  obtain ⟨w, hw, canonical', value'⟩ := h'
  rw [params, ← value] at value'
  rw [hv, hw, fieldOf_injective s.params mc h3 canonical' canonical value']

/-- Points that mean the same coordinates are the same registers. -/
theorem sameRegs_of_pointMeans {c : Coordinates (ZMod p)} (config : Configured s p mc) (params : t.params = s.params)
    (h : PointMeans s p mc c) (h' : PointMeans t p mc c) : SameRegs [.x, .y, .z, .z2, .z3] t s := by
  simp only [SameRegs, List.forall_mem_cons]
  exact ⟨get_eq_of_means config params h.x h'.x, get_eq_of_means config params h.y h'.y,
    get_eq_of_means config params h.z h'.z, get_eq_of_means config params h.z2 h'.z2,
    get_eq_of_means config params h.z3 h'.z3, List.forall_mem_nil _⟩

end Power

/-- Settles O56: both sides leave the `n`-fold closed form of the doubling on the lifted base point. -/
theorem powerOfTwoIsRepeatedDoubling : Obligations.PowerOfTwoIsRepeatedDoubling := by
  intro s u p mc n x y last q q' config config' params hax hay hx hy ux uy uz uz2 uz3 string _ zeros
  obtain ⟨prime, h3, -⟩ := (goodModulus_iff _ _).mp config.good
  have := Fact.mk prime
  have canonical : fpOne s.params p mc < p := fpOne_lt s.params mc (by omega)
  have meansOne : ∀ {r}, u.regs.get r = .value (fpOne s.params p mc) → Means u p mc r 1 := fun value =>
    ⟨_, value, canonical, by rw [params]; exact fieldOf_one s.params mc h3⟩
  have point : PointMeans u p mc (lifted (fieldOf s.params p mc x) (fieldOf s.params p mc y)) :=
    ⟨params ▸ means_of_value ux hx, params ▸ means_of_value uy hy, meansOne uz, meansOne uz2, meansOne uz3⟩
  obtain ⟨v, times, -, configV, params', pointV⟩ := exists_doubledTimes q' config' point n
  obtain ⟨iterated, none⟩ := driven_zeros (fieldOf s.params p mc x) (fieldOf s.params p mc y) zeros
  obtain ⟨t, ran, pointT, -, -, frame⟩ := scalarCommandDrivesTheAccumulator s p mc _ _ n last q config
    (means_of_value hax hx) (means_of_value hay hy) string
  have paramsT : t.params = v.params := by rw [frame, params', params]
  have steps : 8 + 22 * n + 21 * onesTo s.dig n = 8 + 22 * n := by rw [none]; rfl
  rw [iterated] at pointT
  exact ⟨t, v, steps ▸ ran, times, sameRegs_of_pointMeans configV paramsT pointV pointT⟩

end Sys2Proof.Proofs
end

section
/-!
The accumulator on the curve: along the digits of a scalar below the order of the base point the two primitives never
meet an exceptional case, and the driven accumulator projects to the multiple of the base point that the digits read so
far name (R119). The curve and the sum of its points are Mathlib's.
-/

namespace Sys2Proof.Proofs

open Sys2Proof.Machine Sys2Proof.Laws
open WeierstrassCurve.Affine (Point)

/-- The curve `y^2 = x^3 - 3x + b` (R119). -/
abbrev curve {F : Type} [Field F] (b : F) : WeierstrassCurve.Affine F :=
  (WeierstrassCurve.mk 0 0 0 (-3) b : WeierstrassCurve F).toAffine

/-- The Point registers satisfy the invariant of R104 and project to the finite point `P`. -/
structure Projects {F : Type} [Field F] {b : F} (c : Coordinates F) (P : (curve b).Point) : Prop where
  z_ne_zero : c.z ≠ 0
  z2 : c.z2 = c.z ^ 2
  z3 : c.z3 = c.z ^ 3
  point : ∃ h, P = .some (c.x / c.z ^ 2) (c.y / c.z ^ 3) h

section Curve
variable {F : Type} [Field F] {b : F}

/-- A finite point is named by any pair of coordinates equal to its own. -/
theorem exists_eq_some {P : (curve b).Point} {x y x' y' : F} {h : (curve b).Nonsingular x y} (eq : P = .some x y h)
    (hx : x' = x) (hy : y' = y) : ∃ h', P = .some x' y' h' := by
  subst hx hy
  exact ⟨h, eq⟩

/-- The base point lifted projects to itself (R109). -/
theorem projects_lifted {ax ay : F} (h : (curve b).Nonsingular ax ay) :
    Projects (lifted ax ay) (Point.some ax ay h) where
  z_ne_zero := one_ne_zero
  z2 := (one_pow 2).symm
  z3 := (one_pow 3).symm
  point := exists_eq_some rfl (by simp [lifted]) (by simp [lifted])

/-! ### The chord and the tangent on this curve -/

theorem curve_negY (x y : F) : (curve b).negY x y = -y := by simp

theorem curve_addX (x x' l : F) : (curve b).addX x x' l = l ^ 2 - x - x' := by simp

theorem curve_addY (x x' y l : F) : (curve b).addY x x' y l = l * (x - (l ^ 2 - x - x')) - y := by
  rw [WeierstrassCurve.Affine.addY, curve_negY, WeierstrassCurve.Affine.negAddY, curve_addX]
  ring

variable [DecidableEq F] {c : Coordinates F}

theorem curve_slope_self {x y : F} (h : y ≠ (curve b).negY x y) :
    (curve b).slope x x y y = (3 * x ^ 2 - 3) / (2 * y) := by
  rw [WeierstrassCurve.Affine.slope_of_Y_ne rfl h, curve_negY, sub_neg_eq_add, ← two_mul]
  simp [sub_eq_add_neg]

theorem curve_slope_of_ne {x x' : F} (y y' : F) (h : x ≠ x') :
    (curve b).slope x x' y y' = (y' - y) / (x' - x) := by
  rw [WeierstrassCurve.Affine.slope_of_X_ne h, ← neg_sub y', ← neg_sub x', neg_div_neg_eq]

/-! ### The primitives -/

/-- The doubling doubles a point whose double is finite: only a point with `y = 0` is its own negative (R94). -/
theorem Projects.doubled (two : (2 : F) ≠ 0) {P : (curve b).Point} (h : Projects c P) (finite : P + P ≠ 0) :
    Projects (doubled c) (P + P) := by
  obtain ⟨on, rfl⟩ := h.point
  have hy : c.y / c.z ^ 3 ≠ (curve b).negY (c.x / c.z ^ 2) (c.y / c.z ^ 3) :=
    fun eq => finite (Point.add_self_of_Y_eq eq)
  have y_ne_zero : c.y ≠ 0 := fun zero => hy (by rw [curve_negY, zero, zero_div, neg_zero])
  obtain ⟨affineX, affineY⟩ := doubled_affine two h.z2 h.z_ne_zero y_ne_zero
  refine ⟨mul_ne_zero (mul_ne_zero two y_ne_zero) h.z_ne_zero, rfl, rfl,
    exists_eq_some (Point.add_self_of_Y_ne hy) ?_ ?_⟩
  · rw [affineX, curve_addX, curve_slope_self hy]
    ring
  · rw [affineY, curve_addY, curve_slope_self hy]
    ring

/-- The addition adds a base point that is neither the point nor its negative: only those share its `x` (R105). -/
theorem Projects.added {ax ay : F} {on : (curve b).Nonsingular ax ay} {P : (curve b).Point} (h : Projects c P)
    (ne : P ≠ .some ax ay on) (ne_neg : P ≠ -.some ax ay on) : Projects (added c ax ay) (P + .some ax ay on) := by
  obtain ⟨onP, rfl⟩ := h.point
  have hx : c.x / c.z ^ 2 ≠ ax := fun eq => (Point.X_eq_iff.mp eq).elim ne ne_neg
  have apart : ax - c.x / c.z ^ 2 ≠ 0 := sub_ne_zero.mpr (Ne.symm hx)
  have projected := scaled_projection h.z2 h.z3 h.z_ne_zero
  have affine := added_scaled_affine (y := c.y / c.z ^ 3) (ay := ay) h.z_ne_zero apart
  have z_ne_zero : (Machine.added c ax ay).z ≠ 0 := by
    rw [projected, added_scaled_z]
    exact mul_ne_zero (pow_ne_zero 3 h.z_ne_zero) apart
  rw [← projected] at affine
  obtain ⟨affineX, affineY⟩ := affine
  refine ⟨z_ne_zero, rfl, rfl, exists_eq_some (Point.add_of_X_ne hx) ?_ ?_⟩
  · rw [affineX, curve_addX, curve_slope_of_ne _ _ hx]
  · rw [affineY, curve_addY, curve_slope_of_ne _ _ hx]

end Curve

/-! ## Along the digits -/

theorem scalarTo_pos (dig : Memory) (m : Nat) : 0 < scalarTo dig m := by
  induction m with
  | zero => exact Nat.one_pos
  | succ m ih => rw [scalarTo]; omega

/-- Below its order an even multiple of `g` is neither `g` nor its negative: where a digit `'1'` adds, the case is
generic. -/
theorem nsmul_generic {G : Type} [AddCommGroup G] {g : G} {k : Nat} (positive : 0 < k)
    (below : 2 * k + 1 < addOrderOf g) : (2 * k) • g ≠ g ∧ (2 * k) • g ≠ -g := by
  constructor
  · intro eq
    have cancel : (2 * k - 1) • g + g = 0 + g := by
      rw [← succ_nsmul, Nat.sub_add_cancel (by omega), eq, zero_add]
    exact nsmul_ne_zero_of_lt_addOrderOf (by omega) (by omega) (add_right_cancel cancel)
  · intro eq
    have vanishes : (2 * k + 1) • g = 0 := by rw [succ_nsmul, eq, neg_add_cancel]
    exact nsmul_ne_zero_of_lt_addOrderOf (by omega) below vanishes

/-- The driven accumulator projects to the multiple of the base point that the digits name. -/
theorem projects_driven {F : Type} [Field F] [DecidableEq F] {b ax ay : F} (two : (2 : F) ≠ 0)
    (on : (curve b).Nonsingular ax ay) {dig : Memory} {m : Nat}
    (below : scalarTo dig m < addOrderOf (Point.some ax ay on)) :
    Projects (driven dig ax ay m) (scalarTo dig m • Point.some ax ay on) := by
  induction m with
  | zero =>
    rw [scalarTo, one_nsmul]
    exact projects_lifted on
  | succ m ih =>
    rw [scalarTo] at below
    have positive := scalarTo_pos dig m
    have double : (2 * scalarTo dig m) • Point.some ax ay on =
        scalarTo dig m • Point.some ax ay on + scalarTo dig m • Point.some ax ay on := by rw [two_mul, add_nsmul]
    have finite : (2 * scalarTo dig m) • Point.some ax ay on ≠ 0 :=
      nsmul_ne_zero_of_lt_addOrderOf (by omega) (by omega)
    have doubled := (ih (by omega)).doubled two (double ▸ finite)
    rw [← double] at doubled
    rw [driven, scalarTo]
    cases digit : oneAt dig (m + 1) with
    | false => simpa using doubled
    | true =>
      obtain ⟨ne, ne_neg⟩ := nsmul_generic positive (by simpa [digit] using below)
      simpa [succ_nsmul] using doubled.added ne ne_neg

end Sys2Proof.Proofs
end

section
/-!
The converter on an accumulator that satisfies the invariant of R104, and command `KP` as scalar multiplication (R119,
R124 to R128, R140).
-/

namespace Sys2Proof.Proofs

open Sys2Proof.Machine Sys2Proof.Laws
open WeierstrassCurve.Affine (Point)

/-! ## The branches of the converter (R125, R126) -/

/-- The listings of `ROM.AFF1` and `ROM.AFF0`. -/
theorem slotsBefore_aff1 : slotsBefore .aff1 6 =
    [(.mul, .r0, .z, some .z), (.inv, .r1, .r0, none), (.mul, .xa, .x, some .r1), (.mul, .r0, .z, some .r0),
     (.inv, .r1, .r0, none), (.mul, .ya, .y, some .r1)] := rfl

theorem slotsBefore_aff0 : slotsBefore .aff0 4 =
    [(.inv, .r1, .z2, none), (.mul, .xa, .x, some .r1), (.inv, .r1, .z3, none), (.mul, .ya, .y, some .r1)] := rfl

/-- The inputs of the converter are Point registers (R125, R126). -/
theorem supplied_converter {u : SeqUnit} (hu : u = .aff1 ∨ u = .aff0) :
    Supplied [.x, .y, .z, .z2, .z3, .ax, .ay] u := by
  intro k hk r
  revert k
  obtain rfl | rfl := hu <;> cases r <;> decide

theorem converter_writes {u : SeqUnit} (hu : u = .aff1 ∨ u = .aff0) :
    writtenBefore u (romLength u) .xa = true ∧ writtenBefore u (romLength u) .ya = true := by
  obtain rfl | rfl := hu <;> decide

section Values
variable {F : Type} [Field F] {c : Coordinates F} {u : SeqUnit}

/-- Both branches compute the affine coordinates (R130). -/
theorem valuesAfter_converter (hu : u = .aff1 ∨ u = .aff0) (z2 : c.z2 = c.z ^ 2) (z3 : c.z3 = c.z ^ 3) (ax ay : F) :
    valuesAfter u (romLength u) (startValues c ax ay) .xa = c.x / c.z ^ 2 ∧
      valuesAfter u (romLength u) (startValues c ax ay) .ya = c.y / c.z ^ 3 := by
  obtain rfl | rfl := hu
  · simp [valuesAfter, romLength, slotsBefore_aff1, assign_apply, fieldOp, startValues, div_eq_mul_inv, pow_succ,
      mul_comm]
  · simp [valuesAfter, romLength, slotsBefore_aff0, assign_apply, fieldOp, startValues, div_eq_mul_inv, z2, z3]

/-- Neither branch inverts a zero when `Z` is not 0 (R131). -/
theorem converter_invertible (hu : u = .aff1 ∨ u = .aff0) (hz : c.z ≠ 0) (z2 : c.z2 = c.z ^ 2) (z3 : c.z3 = c.z ^ 3)
    (ax ay : F) {n : Nat} {dst sa : Reg} {sb : Option Reg} (fields : slotFields u n = some (.inv, dst, sa, sb)) :
    valuesAfter u n (startValues c ax ay) sa ≠ 0 := by
  have inside := lt_of_slotFields fields
  obtain rfl | rfl := hu
  · have square : slotsBefore .aff1 1 = [(.mul, .r0, .z, some .z)] := rfl
    have cube : slotsBefore .aff1 4 = [(.mul, .r0, .z, some .z), (.inv, .r1, .r0, none), (.mul, .xa, .x, some .r1),
      (.mul, .r0, .z, some .r0)] := rfl
    change n < 6 at inside
    interval_cases n <;> cases fields
    · simp [valuesAfter, square, assign_apply, fieldOp, startValues, hz]
    · simp [valuesAfter, cube, assign_apply, fieldOp, startValues, hz]
  · have first : slotsBefore .aff0 0 = [] := rfl
    have second : slotsBefore .aff0 2 = [(.inv, .r1, .z2, none), (.mul, .xa, .x, some .r1)] := rfl
    change n < 4 at inside
    interval_cases n <;> cases fields
    · simp [valuesAfter, first, startValues, z2, hz]
    · simp [valuesAfter, second, assign_apply, startValues, z3, hz]

end Values

/-! ## From the select step to the finish (R124, R128, R143) -/

/-- The select step enters the branch of a digit with the scratch registers invalidated (R16, R124). -/
theorem step_select {s : State} (unit : s.unit = .affsel) (quiet : s.inputs = [])
    (digit : s.lastd = 0x30#8 ∨ s.lastd = 0x31#8) :
    ∃ u, (u = .aff1 ∨ u = .aff0) ∧
      step s = .next { s with cur := s.cur, regs := s.regs.dropScratch, unit := u, upc := 0 } := by
  rw [step_nil quiet, sequencerStep_affsel unit]
  obtain zero | one := digit
  · exact ⟨.aff0, .inr rfl, by rw [selectStep, if_neg (by rw [zero]; decide), if_pos zero]; rfl⟩
  · exact ⟨.aff1, .inl rfl, by rw [selectStep, if_pos one]; rfl⟩

/-- The converter finishes, and reports that its results are there (R125, R126, R143). -/
theorem microprogramEnd_converter {w : State} (hu : w.unit = .aff1 ∨ w.unit = .aff0) :
    (microprogramEnd w).unit = .idle ∧ flag .done (microprogramEnd w) = true ∧
      flag .outValid (microprogramEnd w) = true ∧ (microprogramEnd w).params = w.params ∧
      (microprogramEnd w).regs = w.regs := by
  obtain hu | hu := hu <;> simp [microprogramEnd, hu, flag, getFlag, flagBit]

/-- The converter on an accumulator that satisfies the invariant and has `Z` not 0: it ends with the affine coordinates
in `XA`, `YA`, whichever digit was last (R119, R124 to R128). -/
theorem Loaded.run_converter {s : State} {p mc : Nat} [Fact p.Prime] {c : Coordinates (ZMod p)} {ax ay : ZMod p}
    (h : Loaded s p mc c ax ay) (unit : s.unit = .affsel) (digit : s.lastd = 0x30#8 ∨ s.lastd = 0x31#8)
    (hz : c.z ≠ 0) (z2 : c.z2 = c.z ^ 2) (z3 : c.z3 = c.z ^ 3) :
    ∃ k t, run k s = .next t ∧ t.unit = .idle ∧ flag .done t = true ∧ flag .outValid t = true ∧
      Means t p mc .xa (c.x / c.z ^ 2) ∧ Means t p mc .ya (c.y / c.z ^ 3) := by
  obtain ⟨u, hu, selected⟩ := step_select unit h.quiet digit
  have entered := h.enter u s.cur
  have start : Start _ p mc [.x, .y, .z, .z2, .z3, .ax, .ay] (startValues c ax ay) :=
    { quiet := entered.quiet
      entry := entered.entry
      injected := entered.injected
      config := entered.config
      supplied := supplied_converter hu
      represents := fun r hr => (represents_startValues entered.point entered.x entered.y r hr).2
      invertible := fun n dst sa sb fields => converter_invertible hu hz z2 z3 ax ay fields }
  obtain ⟨w, ran, -, progress⟩ := start.run_microprogram (by obtain rfl | rfl := hu <;> simp [romLength])
  obtain ⟨idle, done, valid, params, regs⟩ := microprogramEnd_converter (w := w) (by rw [progress.frame]; exact hu)
  obtain ⟨writesX, writesY⟩ := converter_writes hu
  obtain ⟨valueX, valueY⟩ := valuesAfter_converter hu z2 z3 ax ay
  have means : ∀ {r}, writtenBefore u (romLength u) r = true →
      Means (microprogramEnd w) p mc r (valuesAfter u (romLength u) (startValues c ax ay) r) := fun written =>
    means_of_same ((represents_iff (ne_one_of_writtenBefore written)).mp (progress.represents _ (.inr written)))
      params (by rw [regs])
  exact ⟨romLength u + 1, _, by rw [run_succ, selected]; exact ran, idle, done, valid, valueX ▸ means writesX,
    valueY ▸ means writesY⟩

/-! ## Command `KP` (R119, R140) -/

/-- Under `KP` a well-formed string ends in the converter, on the driven accumulator (R115, R140). -/
theorem run_to_converter {s : State} {p mc m : Nat} {ax ay : ZMod p} {last : Symbol} (q : Quiet s)
    (config : Configured s p mc) (x : Means s p mc .ax ax) (y : Means s p mc .ay ay) (string : Processes s m last)
    (len : s.len.toNat = m + 1) :
    ∃ k t, run k (issue 0x05 s) = .next t ∧ t.unit = .affsel ∧ t.lastd = last ∧ Driven s 0x05 p mc ax ay m t := by
  obtain ⟨t, ran, unit, status, h⟩ := run_driver q config x y (.inr rfl) string
  have cmdr : t.cmdr = 0x05#8 := by rw [h.frame]
  have clean : flag .errDigit t = false := by
    rw [flag, status, statusAtFin, if_neg (by omega)]
    rfl
  have latched := finStepLatchesAndContinues t last unit (h.loaded q config x y).quiet (h.lastSymbol string)
  rw [if_pos ⟨cmdr, .inl clean⟩] at latched
  exact ⟨_, _, by rw [run_add ran 1, run_one, latched], rfl, rfl, h.of_frame rfl⟩

/-- A modulus that passes the accept step is odd (R27). -/
theorem two_ne_zero_of_configured {s : State} {p mc : Nat} (config : Configured s p mc) : (2 : ZMod p) ≠ 0 := by
  obtain ⟨-, h3, -⟩ := (goodModulus_iff _ _).mp config.good
  rw [← Nat.cast_ofNat, Ne, ZMod.natCast_eq_zero_iff]
  exact Nat.not_dvd_of_pos_of_lt (by decide) (by omega)

/-- Settles O57: the driver computes the multiple in Jacobian coordinates, and the converter projects it. -/
theorem scalarMultiplicationIsCorrect : Obligations.ScalarMultiplicationIsCorrect := by
  intro s p mc _ b ax ay n m last on q config x y string len digit _ _ order below
  obtain ⟨j, t, ran, unit, lastd, h⟩ := run_to_converter q config x y string len
  have projects := projects_driven (dig := s.dig) (m := m) (two_ne_zero_of_configured config) on (by rwa [order])
  obtain ⟨k, u, ran', idle, done, valid, meansX, meansY⟩ := (h.loaded q config x y).run_converter unit
    (by rw [lastd]; exact digit) projects.z_ne_zero projects.z2 projects.z3
  obtain ⟨onP, point⟩ := projects.point
  exact ⟨j + k, u, _, _, onP, (run_add ran k).trans ran', idle, done, valid, meansX, meansY, point⟩

end Sys2Proof.Proofs
end

section
/-!
The converter as a command (`44_affine_converter.md`): the select step (R124), command `AFF` on each of its two branches
with what it writes and what it leaves (R125 to R129, R139), the agreement of the branches (R130, R132), and the
inversions of zero (R131, R162).
-/

namespace Sys2Proof.Proofs

open Sys2Proof.Machine Sys2Proof.Laws

/-! ## The select step (R124) -/

/-- Settles O29: the three branches of the select step. -/
theorem selectStepReadsLastdAlone : Obligations.SelectStepReadsLastdAlone := by
  intro s unit quiet
  rw [step_nil quiet, sequencerStep_affsel unit]
  refine ⟨fun one => ?_, fun zero => ?_, fun not1 not0 => ?_⟩
  · rw [selectStep, if_pos one]
    rfl
  · rw [selectStep, if_neg (by rw [zero]; decide), if_pos zero]
    rfl
  · rw [selectStep, if_neg not1, if_neg not0, raiseError_unsupportedNormalizationBranch, finish_eq, finish_status_eq]
    rfl

/-! ## From the accept step to a branch (R135, R139) -/

/-- The digit that selects a branch (R124). -/
def BranchDigit (u : SeqUnit) (d : Symbol) : Prop := (u = .aff1 ∧ d = 0x31#8) ∨ (u = .aff0 ∧ d = 0x30#8)

/-- A core at the select step of a command `AFF` (R135). -/
def converterEntry (s : State) : State :=
  { s with status := 0x01#8, cmdr := 0x04#8, unit := .affsel, reply := .done }

/-- A core at the entry of the branch that `AFF` has selected (R16, R124). -/
def branchEntry (u : SeqUnit) (s : State) : State :=
  { converterEntry s with regs := s.regs.dropScratch, unit := u, upc := 0 }

/-- The `STATUS` byte that a branch leaves: `OUT_VALID`, `DONE`, and `BRANCH` on the `'1'` branch (R125, R126). -/
def branchStatus (u : SeqUnit) : BitVec 8 := if u = .aff1 then 0x62#8 else 0x22#8

/-- One more step of a run. -/
theorem run_snoc {n : Nat} {s t : State} (ran : run n s = .next t) : run (n + 1) s = step t :=
  (run_add ran 1).trans (run_one t)

section Command
variable {s : State} {p mc : Nat} {u : SeqUnit}

/-- An idle core is in `IDLE` at `UPC` 0 (R31). -/
theorem idle_of_quiet (q : Quiet s) : { s with unit := .idle, upc := 0 } = s := by
  rw [← q.idle, ← Invariant_upc_idle q.inv q.idle]

theorem step_issue_converter (q : Quiet s) (config : Configured s p mc) :
    step (issue 0x04 s) = .next (converterEntry s) := by
  have check : checkModulus (takeCommand 0x04#8 s) = none :=
    checkModulus_none.mpr ⟨p, mc, config.modulus, config.constant, config.good⟩
  have accepted : exec .cmdAff s = .next (setUnit .affsel (setFlag .busy true (takeCommand 0x04#8 s))) :=
    accept_next.mpr (.inr ⟨not_busy_of_quiet q, check, rfl⟩)
  rw [takeCommand_eq, setFlag_eq, accepted_status_eq, accepted_status_of_quiet q] at accepted
  exact step_issue q (by decide) accepted

/-- The second step of command `AFF` is the select step. -/
theorem run_to_select (q : Quiet s) (config : Configured s p mc) :
    run 2 (issue 0x04 s) = step (converterEntry s) :=
  run_snoc ((run_one _).trans (step_issue_converter q config))

/-- It leads into the branch of the digit. -/
theorem run_to_branch (q : Quiet s) (config : Configured s p mc) (digit : BranchDigit u s.lastd) :
    run 2 (issue 0x04 s) = .next (branchEntry u s) := by
  obtain ⟨one, zero, -⟩ := selectStepReadsLastdAlone (converterEntry s) rfl q.inputs
  have ran := run_to_select q config
  obtain ⟨rfl, d⟩ | ⟨rfl, d⟩ := digit
  · exact ran.trans (one d)
  · exact ran.trans (zero d)

/-! ## From a branch to the finish (R125, R126, R143) -/

/-- What a branch leaves at the end of command `AFF`: all but the registers, by an equation. -/
theorem microprogramEnd_of_branch {w : State} {ins : List Reg} {e : Reg → ZMod p} (q : Quiet s)
    (digit : BranchDigit u s.lastd) (progress : Progress (branchEntry u s) p mc ins e (romLength u) w)
    (upc : w.upc = 0) :
    microprogramEnd w = { s with
      regs := w.regs, status := branchStatus u, cmdr := 0x04#8, trace := s.trace ++ romEvents u, reply := .done } := by
  have frame : w = { branchEntry u s with regs := w.regs, trace := s.trace ++ romEvents u, upc := 0 } := by
    rw [← upc]
    exact progress.frame
  have finished : microprogramEnd { branchEntry u s with regs := w.regs, trace := s.trace ++ romEvents u, upc := 0 } =
      { ({ s with unit := .idle, upc := 0 } : State) with
        regs := w.regs, status := branchStatus u, cmdr := 0x04#8, trace := s.trace ++ romEvents u
        reply := .done } := by
    obtain ⟨rfl, -⟩ | ⟨rfl, -⟩ := digit <;> simp [microprogramEnd, branchEntry, converterEntry, branchStatus]
  rw [idle_of_quiet q, ← frame] at finished
  exact finished

/-- Command `AFF` on inputs that mean `e`, when its branch inverts no zero: after the accept step, the select step
and one step per slot the core is idle, every register that the branch writes means its value, the other scratch
registers are unwritten, and no other register has changed. -/
theorem run_converter_command {ins : List Reg} {e : Reg → ZMod p} (q : Quiet s) (config : Configured s p mc)
    (digit : BranchDigit u s.lastd) (supplied : Supplied ins u)
    (stored : ∀ r ∈ ins, r ≠ .one ∧ r.isScratch = false) (inputs : ∀ r ∈ ins, Means s p mc r (e r))
    (invertible : ∀ n dst sa sb, slotFields u n = some (.inv, dst, sa, sb) → valuesAfter u n e sa ≠ 0) :
    ∃ t, run (2 + romLength u) (issue 0x04 s) = .next t ∧
      t = { s with regs := t.regs, status := branchStatus u, cmdr := 0x04#8, trace := s.trace ++ romEvents u
                   reply := .done } ∧
      (∀ r, writtenBefore u (romLength u) r = false → t.regs.get r = s.regs.dropScratch.get r) ∧
      ∀ r, writtenBefore u (romLength u) r = true → Means t p mc r (valuesAfter u (romLength u) e r) := by
  have start : Start (branchEntry u s) p mc ins e :=
    { quiet := q.inputs
      entry := rfl
      injected := q.inv.not_injected
      config := ⟨config.modulus, config.constant, config.good⟩
      supplied := supplied
      represents := fun r hr => ((represents_iff (stored r hr).1).mpr (inputs r hr)).of_same rfl (by
        rw [branchEntry, RegFile_get_dropScratch, (stored r hr).2]; rfl)
      invertible := invertible }
  have rom : romLength u ≠ 0 := by obtain ⟨rfl, -⟩ | ⟨rfl, -⟩ := digit <;> decide
  obtain ⟨w, ran, upc, progress⟩ := start.run_microprogram rom
  have ran := (run_add (run_to_branch q config digit) (romLength u)).trans ran
  rw [microprogramEnd_of_branch q digit progress upc] at ran
  refine ⟨_, ran, rfl, progress.kept, fun r written => ?_⟩
  have params : s.params = w.params := by rw [progress.frame]; rfl
  exact (represents_iff (ne_one_of_writtenBefore written)).mp
    ((progress.represents r (.inr written)).of_same params rfl)

end Command

/-! ## The values of the two branches (R125, R126) -/

section Values
variable {F : Type} [CommRing F] [Inv F]

/-- The `'1'` branch squares and cubes the live `Z`. -/
theorem valuesAfter_aff1 (c : Coordinates F) (ax ay : F) :
    let e := valuesAfter .aff1 6 (startValues c ax ay)
    e .xa = c.x * (c.z * c.z)⁻¹ ∧ e .ya = c.y * (c.z * c.z * c.z)⁻¹ ∧ e .r0 = c.z * c.z * c.z ∧
      e .r1 = (c.z * c.z * c.z)⁻¹ := by
  simp [valuesAfter, slotsBefore_aff1, assign_apply, fieldOp, startValues, mul_assoc]

/-- The `'0'` branch takes the cached `Z2` and `Z3` as they are. -/
theorem valuesAfter_aff0 (c : Coordinates F) (ax ay : F) :
    let e := valuesAfter .aff0 4 (startValues c ax ay)
    e .xa = c.x * c.z2⁻¹ ∧ e .ya = c.y * c.z3⁻¹ ∧ e .r1 = c.z3⁻¹ := by
  simp [valuesAfter, slotsBefore_aff0, assign_apply, fieldOp, startValues]

end Values

/-- The `'0'` branch inverts the cached `Z2` and `Z3` (R131). -/
theorem aff0_invertible {F : Type} [Field F] {c : Coordinates F} (hz2 : c.z2 ≠ 0) (hz3 : c.z3 ≠ 0) (ax ay : F) {n : Nat}
    {dst sa : Reg} {sb : Option Reg} (fields : slotFields .aff0 n = some (.inv, dst, sa, sb)) :
    valuesAfter .aff0 n (startValues c ax ay) sa ≠ 0 := by
  have first : slotsBefore .aff0 0 = [] := rfl
  have second : slotsBefore .aff0 2 = [(.inv, .r1, .z2, none), (.mul, .xa, .x, some .r1)] := rfl
  have inside : n < 4 := lt_of_slotFields fields
  interval_cases n <;> cases fields
  · simpa [valuesAfter, first, startValues] using hz2
  · simpa [valuesAfter, second, assign_apply, startValues] using hz3

/-- The `'1'` branch reads `X`, `Y` and the live `Z` only (R125). -/
theorem supplied_aff1 : Supplied [.x, .y, .z] .aff1 := by
  intro k hk r
  revert k
  cases r <;> decide

/-- The `'0'` branch does not read `Z` (R126). -/
theorem supplied_aff0 : Supplied [.x, .y, .z2, .z3] .aff0 := by
  intro k hk r
  revert k
  cases r <;> decide

/-! ## Command `AFF` (R129, R139) -/

/-- Registers that a branch neither writes nor invalidates (R129). -/
theorem sameRegs_of_branch {s t : State} {u : SeqUnit} (digit : BranchDigit u s.lastd)
    (kept : ∀ r, writtenBefore u (romLength u) r = false → t.regs.get r = s.regs.dropScratch.get r) :
    SameRegs [.x, .y, .z, .z2, .z3, .ax, .ay] s t := by
  have untouched : ∀ u ∈ [SeqUnit.aff1, .aff0], ∀ r ∈ [Reg.x, .y, .z, .z2, .z3, .ax, .ay],
      writtenBefore u (romLength u) r = false ∧ r.isScratch = false := by decide
  intro r hr
  obtain ⟨unwritten, stored⟩ := untouched u (by obtain ⟨rfl, -⟩ | ⟨rfl, -⟩ := digit <;> decide) r hr
  rw [kept r unwritten, RegFile_get_dropScratch, stored]
  rfl

/-- Settles O51: the run of each branch with the values its slots compute, and the select step that finds no digit. The
`'1'` branch does not read `Z2` and `Z3`, so there the run may be taken as if they were the powers of `Z`. -/
theorem converterCommandWritesTheAffinePair : Obligations.ConverterCommandWritesTheAffinePair := by
  intro s p mc x y z z2 z3 q config
  obtain ⟨prime, -, -⟩ := (goodModulus_iff _ _).mp config.good
  have := Fact.mk prime
  refine ⟨fun one hx hy hz nonzero => ?one, fun zero hx hy hz2 hz3 nonzero2 nonzero3 => ?zero,
    fun not1 not0 => ?unsupported⟩
  case one =>
    have digit : BranchDigit .aff1 s.lastd := .inl ⟨rfl, one⟩
    have inputs : ∀ r ∈ [Reg.x, .y, .z], Means s p mc r (startValues ⟨x, y, z, z ^ 2, z ^ 3⟩ 0 0 r) := by
      simp only [List.forall_mem_cons]
      exact ⟨hx, hy, hz, List.forall_mem_nil _⟩
    obtain ⟨t, ran, frame, kept, means⟩ := run_converter_command q config digit supplied_aff1 (by decide) inputs
      fun n dst sa sb fields => converter_invertible (.inl rfl) nonzero rfl rfl 0 0 fields
    obtain ⟨xa, ya, r0, r1⟩ := valuesAfter_aff1 ⟨x, y, z, z ^ 2, z ^ 3⟩ 0 0
    exact ⟨t, ran, xa ▸ means .xa (by decide), ya ▸ means .ya (by decide), r0 ▸ means .r0 (by decide),
      r1 ▸ means .r1 (by decide), kept .r2 (by decide), kept .r3 (by decide), kept .t0 (by decide),
      sameRegs_of_branch digit kept, frame⟩
  case zero =>
    have digit : BranchDigit .aff0 s.lastd := .inr ⟨rfl, zero⟩
    have inputs : ∀ r ∈ [Reg.x, .y, .z2, .z3], Means s p mc r (startValues ⟨x, y, z, z2, z3⟩ 0 0 r) := by
      simp only [List.forall_mem_cons]
      exact ⟨hx, hy, hz2, hz3, List.forall_mem_nil _⟩
    obtain ⟨t, ran, frame, kept, means⟩ := run_converter_command q config digit supplied_aff0 (by decide) inputs
      fun n dst sa sb fields => aff0_invertible nonzero2 nonzero3 0 0 fields
    obtain ⟨xa, ya, r1⟩ := valuesAfter_aff0 ⟨x, y, z, z2, z3⟩ 0 0
    exact ⟨t, ran, xa ▸ means .xa (by decide), ya ▸ means .ya (by decide), r1 ▸ means .r1 (by decide),
      kept .r0 (by decide), kept .r2 (by decide), kept .r3 (by decide), kept .t0 (by decide),
      sameRegs_of_branch digit kept, frame⟩
  case unsupported =>
    obtain ⟨-, -, other⟩ := selectStepReadsLastdAlone (converterEntry s) rfl q.inputs
    have ran : run 2 (issue 0x04 s) = .next { ({ s with unit := .idle, upc := 0 } : State) with
        status := ((0x01#8 ||| 0x08#8) &&& 0xFE#8) ||| 0x02#8, cmdr := 0x04#8, reply := .done } :=
      (run_to_select q config).trans (other not1 not0)
    rw [idle_of_quiet q] at ran
    exact ran

/-! ## The branches agree (R130, R132) -/

/-- Only `LASTD` differs: the command can run on the same Point with either value of it (R132). -/
theorem quiet_with_lastd {s : State} (q : Quiet s) (d : Symbol) : Quiet { s with lastd := d } :=
  ⟨Invariant_of_eq q.inv rfl, q.idle, q.inputs⟩

/-- Settles O52: both branches write the values `X/Z^2` and `Y/Z^3` of the same Point, and a canonical value is
determined by what it means. -/
theorem converterBranchesAgree : Obligations.ConverterBranchesAgree := by
  intro s p mc c q config point hz2 hz3 hz
  obtain ⟨prime, -, -⟩ := (goodModulus_iff _ _).mp config.good
  have := Fact.mk prime
  have configured : ∀ d, Configured { s with lastd := d } p mc := fun _ =>
    ⟨config.modulus, config.constant, config.good⟩
  have nonzero2 : c.z2 ≠ 0 := hz2 ▸ mul_ne_zero hz hz
  have nonzero3 : c.z3 ≠ 0 := hz3 ▸ mul_ne_zero hz nonzero2
  obtain ⟨live, -, -⟩ := converterCommandWritesTheAffinePair { s with lastd := 0x31#8 } p mc c.x c.y c.z c.z2 c.z3
    (quiet_with_lastd q _) (configured _)
  obtain ⟨-, cached, -⟩ := converterCommandWritesTheAffinePair { s with lastd := 0x30#8 } p mc c.x c.y c.z c.z2 c.z3
    (quiet_with_lastd q _) (configured _)
  obtain ⟨t, ranT, xaT, yaT, -, -, -, -, -, -, frameT⟩ := live rfl point.x point.y point.z hz
  obtain ⟨u, ranU, xaU, yaU, -, -, -, -, -, -, frameU⟩ :=
    cached rfl point.x point.y point.z2 point.z3 nonzero2 nonzero3
  have cube : c.z * c.z * c.z = c.z3 := by rw [hz3, hz2, mul_assoc]
  rw [← hz2] at xaT
  rw [cube] at yaT
  have configT : Configured t p mc := by
    rw [frameT]
    exact ⟨config.modulus, config.constant, config.good⟩
  have params : u.params = t.params := by rw [frameT, frameU]
  exact ⟨t, u, ranT, ranU, get_eq_of_means configT params xaT xaU, get_eq_of_means configT params yaT yaU,
    congrArg State.status frameT, congrArg State.status frameU⟩

/-! ## Inversions of zero (R131, R162) -/

section Slots
variable {s : State} {p mc : Nat} {dst sa : Reg}

/-- A slot on readable operands completes. -/
theorem step_slot_ready {k : OpKind} {sb : Option Reg} {a b v : Nat} (quiet : s.inputs = [])
    (injected : s.injected = none) (fields : slotFields s.unit s.upc = some (k, dst, sa, sb))
    (ready : Ready s p mc k dst sa sb a b v) : step s = .next (slotDone s.unit s.upc k dst sa sb v s) := by
  rw [step_nil quiet, sequencerStep_slot injected (lt_of_slotFields fields) fields, microStep_of_ready ready]

/-- `FINV` of 0 gets no result (R82, R162). -/
theorem microResult_finvZero (hp : s.p = .value p) (hmc : s.mc = .value mc) (zero : Reads s p mc sa 0) :
    microResult .inv sa none s = .error .finvZero := by
  rw [microResult, readReg_of_reads hp hmc zero, readSecond]
  simp only [readModulus_ok.mpr hp, readConstant_ok.mpr hmc]
  exact fieldPort_error.mpr ⟨rfl, rfl, rfl⟩

/-- A slot that inverts 0 faults. -/
theorem step_slot_finvZero (quiet : s.inputs = []) (injected : s.injected = none)
    (fields : slotFields s.unit s.upc = some (.inv, dst, sa, none)) (hp : s.p = .value p) (hmc : s.mc = .value mc)
    (zero : Reads s p mc sa 0) : step s = .fault .finvZero := by
  rw [step_nil quiet, sequencerStep_slot injected (lt_of_slotFields fields) fields]
  exact microStep_fault.mpr (.inr ⟨legalDst_of_slotFields fields, microResult_finvZero hp hmc zero⟩)

end Slots

/-- Settles O53: the slots before the inversion complete, and it finds the zero. -/
theorem converterOfZeroFaults : Obligations.ConverterOfZeroFaults := by
  intro s p mc x q config
  obtain ⟨-, h3, -⟩ := (goodModulus_iff _ _).mp config.good
  have positive : 0 < p := by omega
  have injected := q.inv.not_injected
  refine ⟨fun one hz => ?aff1, fun zero hz2 => ?cachedSquare, fun v zero hz2 hv canonical hx hxp hz3 => ?cachedCube⟩
  case aff1 =>
    have ran := run_to_branch q config (.inl ⟨rfl, one⟩)
    have square : Ready (branchEntry .aff1 s) p mc .mul .r0 .z (some .z) 0 0 0 :=
      .ofTwo config.modulus config.constant rfl ⟨positive, hz⟩ ⟨positive, hz⟩ (congrArg some (fpMul_zero_left ..))
    have ran3 := (run_snoc ran).trans (step_slot_ready q.inputs injected rfl square)
    exact (run_snoc ran3).trans
      (step_slot_finvZero q.inputs injected rfl config.modulus config.constant ⟨positive, rfl⟩)
  case cachedSquare =>
    have ran := run_to_branch q config (.inr ⟨rfl, zero⟩)
    exact (run_snoc ran).trans
      (step_slot_finvZero q.inputs injected rfl config.modulus config.constant ⟨positive, hz2⟩)
  case cachedCube =>
    have ran := run_to_branch q config (.inr ⟨rfl, zero⟩)
    have inverse : Ready (branchEntry .aff0 s) p mc .inv .r1 .z2 none v 0 (fpInv s.params p v) :=
      .ofOne config.modulus config.constant rfl ⟨canonical, hz2⟩ (.inr rfl) (if_neg hv)
    have ran3 := (run_snoc ran).trans (step_slot_ready q.inputs injected rfl inverse)
    have product : Ready (slotDone .aff0 0 .inv .r1 .z2 none (fpInv s.params p v) (branchEntry .aff0 s)) p mc .mul .xa
        .x (some .r1) x (fpInv s.params p v) (fpMul s.params p mc x (fpInv s.params p v)) :=
      .ofTwo config.modulus config.constant rfl ⟨hxp, hx⟩ ⟨fpInv_lt s.params v positive, rfl⟩ rfl
    have ran4 := (run_snoc ran3).trans (step_slot_ready q.inputs injected rfl product)
    exact (run_snoc ran4).trans
      (step_slot_finvZero q.inputs injected rfl config.modulus config.constant ⟨positive, hz3⟩)

end Sys2Proof.Proofs
end

section
/-!
Control is independent of data (R142, R179): what a step of the sequencer does to the control state, it does whatever
the field registers, `P` and `MC` hold. The values decide only whether the step faults.
-/

namespace Sys2Proof.Proofs

open Sys2Proof.Machine Sys2Proof.Laws

/-! ## States with other field values -/

/-- `s` with other field registers and other `P` and `MC`. -/
def withData (g : RegFile) (p mc : Content) (s : State) : State := { s with regs := g, p := p, mc := mc }

theorem sameControl_withData (g : RegFile) (p mc : Content) (s : State) : SameControl s (withData g p mc s) := rfl

theorem exists_withData_of_sameControl {s s' : State} (h : SameControl s s') : ∃ g p mc, s' = withData g p mc s :=
  ⟨s'.regs, s'.p, s'.mc, h⟩

section Updates
variable {s s' : State}

/-- The finish sets the control state alone (R143). -/
theorem sameControl_finish (h : SameControl s s') : SameControl (finish s) (finish s') := by
  obtain ⟨g, p, mc, rfl⟩ := exists_withData_of_sameControl h
  rfl

/-- The entry of a microprogram invalidates scratch registers whatever they held (R16). -/
theorem sameControl_enterPrimitive (h : SameControl s s') (u : SeqUnit) :
    SameControl (enterPrimitive u s) (enterPrimitive u s') := by
  obtain ⟨g, p, mc, rfl⟩ := exists_withData_of_sameControl h
  rfl

/-- The transition at the end of a microprogram asks for `UNIT`, `CMDR` and `CUR` alone (R142). -/
theorem sameControl_endTransition (h : SameControl s s') : SameControl (endTransition s) (endTransition s') := by
  obtain ⟨g, p, mc, rfl⟩ := exists_withData_of_sameControl h
  have unit : (withData g p mc s).unit = s.unit := rfl
  have cmdr : (withData g p mc s).cmdr = s.cmdr := rfl
  have cur : (withData g p mc s).cur = s.cur := rfl
  unfold endTransition
  rw [unit, cmdr, cur]
  cases s.unit with
  | dbl =>
    dsimp only
    split_ifs
    · exact sameControl_finish h
    · exact sameControl_enterPrimitive h .add
    · rfl
  | add =>
    dsimp only
    split_ifs
    · exact sameControl_finish h
    · rfl
  | init | aff1 | aff0 | idle | fetch | fin | affsel => rfl

/-- A micro-operation advances `UPC` and emits its event whatever value it writes (R77). -/
theorem sameControl_retire (h : SameControl s s') (k : OpKind) (dst sa : Reg) (sb : Option Reg) (v v' : Nat) :
    SameControl (retire k dst sa sb v s) (retire k dst sa sb v' s') := by
  obtain ⟨g, p, mc, rfl⟩ := exists_withData_of_sameControl h
  rw [retire_eq_advance, retire_eq_advance]
  by_cases last : s.upc + 1 = romLength s.unit
  · rw [advance_last (s := written k dst sa sb v s) last,
      advance_last (s := written k dst sa sb v' (withData g p mc s)) last]
    exact sameControl_endTransition rfl
  · rw [advance_inside (s := written k dst sa sb v s) last,
      advance_inside (s := written k dst sa sb v' (withData g p mc s)) last]
    rfl

/-- The continuation of the `FIN` step asks for `CMDR`, `STATUS` and the parameters alone (R142, R148). -/
theorem sameControl_afterFin (h : SameControl s s') : SameControl (afterFin s) (afterFin s') := by
  obtain ⟨g, p, mc, rfl⟩ := exists_withData_of_sameControl h
  by_cases converts : s.cmdr = 0x05#8 ∧ (flag .errDigit s = false ∨ s.params.policy = .normalizePartial)
  · rw [afterFin_converter converts.1 converts.2, afterFin_converter (s := withData g p mc s) converts.1 converts.2]
    rfl
  · rw [afterFin_finish converts, afterFin_finish (s := withData g p mc s) converts]
    exact sameControl_finish h

/-- The select step asks for `LASTD` alone (R124). -/
theorem sameControl_selectStep (h : SameControl s s') : SameControl (selectStep s) (selectStep s') := by
  obtain ⟨g, p, mc, rfl⟩ := exists_withData_of_sameControl h
  have lastd : (withData g p mc s).lastd = s.lastd := rfl
  unfold selectStep
  rw [lastd]
  split_ifs
  · exact sameControl_enterPrimitive h .aff1
  · exact sameControl_enterPrimitive h .aff0
  · rfl

end Updates

/-! ## The steps of the sequencer (R142) -/

section Steps
variable {s t t' : State} {g : RegFile} {p mc : Content}

theorem sameControl_microStep {s' : State} (h : SameControl s s') {k : OpKind} {dst sa : Reg} {sb : Option Reg}
    (next : microStep k dst sa sb s = .next t) (next' : microStep k dst sa sb s' = .next t') : SameControl t t' := by
  obtain ⟨-, v, -, rfl⟩ := microStep_next.mp next
  obtain ⟨-, v', -, rfl⟩ := microStep_next.mp next'
  exact sameControl_retire h k dst sa sb v v'

/-- At a unit that names a ROM: the slot at `UPC`, or the injected word, is the same operation. -/
theorem sameControl_rom (rom : romLength s.unit ≠ 0) (next : sequencerStep s = .next t)
    (next' : sequencerStep (withData g p mc s) = .next t') : SameControl t t' := by
  cases injected : s.injected with
  | none =>
    by_cases inside : s.upc < romLength s.unit
    · obtain ⟨k, dst, sa, sb, fields, -⟩ := slotFields_of_lt inside
      rw [sequencerStep_slot injected inside fields] at next
      rw [sequencerStep_slot (s := withData g p mc s) injected inside fields] at next'
      exact sameControl_microStep (sameControl_withData g p mc s) next next'
    · rw [sequencerStep_noWord injected rom (Nat.le_of_not_lt inside)] at next
      cases next
  | some w =>
    rw [sequencerStep_word injected rom] at next
    rw [sequencerStep_word (s := withData g p mc s) injected rom] at next'
    cases decoded : decodeMicro w with
    | error e => rw [decoded] at next; cases next
    | ok i =>
      rw [decoded] at next next'
      dsimp only at next next'
      obtain ⟨k, dst, sa, sb, runs⟩ | ⟨v, faults⟩ := exec_decodeMicro decoded
      · rw [runs] at next next'
        exact sameControl_microStep (sameControl_withData g p mc { s with injected := none }) next next'
      · rw [faults] at next
        cases next

/-- The fetch step reads the string, `LEN` and `DPOS` alone (R111). -/
theorem sameControl_fetch (unit : s.unit = .fetch) (next : sequencerStep s = .next t)
    (next' : sequencerStep (withData g p mc s) = .next t') : SameControl t t' := by
  rw [sequencerStep_fetch (s := withData g p mc s) unit] at next'
  rw [sequencerStep_fetch unit] at next
  by_cases left : s.dpos.toNat < s.len.toNat
  · rw [if_pos left] at next
    rw [if_pos (c := (withData g p mc s).dpos.toNat < (withData g p mc s).len.toNat) left] at next'
    have same : readDigit (withData g p mc s).dpos.toNat (withData g p mc s) = readDigit s.dpos.toNat s := rfl
    rw [same] at next'
    cases read : readDigit s.dpos.toNat s with
    | error f => rw [read] at next; cases next
    | ok c =>
      rw [read] at next next'
      dsimp only at next next'
      by_cases digit : c = 0x30#8 ∨ c = 0x31#8
      · rw [exec_digit digit] at next next'
        cases next
        cases next'
        rfl
      · rw [not_or] at digit
        rw [decodeSymbol_malformed digit.1 digit.2, exec_symMalformed_eq] at next next'
        cases next
        cases next'
        rfl
  · rw [if_neg left] at next
    rw [if_neg (c := (withData g p mc s).dpos.toNat < (withData g p mc s).len.toNat) left] at next'
    cases next
    cases next'
    rfl

/-- The `FIN` step latches a symbol of the string (R115). -/
theorem sameControl_fin (next : finStep s = .next t) (next' : finStep (withData g p mc s) = .next t') :
    SameControl t t' := by
  have latch : ∀ c, SameControl (afterFin (setLastd c s)) (afterFin (setLastd c (withData g p mc s))) := fun c =>
    sameControl_afterFin rfl
  obtain ⟨empty, rfl⟩ | ⟨nonempty, c, read, rfl⟩ := finStep_next next
  · obtain ⟨-, rfl⟩ | ⟨nonempty, -⟩ := finStep_next next'
    · exact latch 0x00#8
    · exact absurd empty nonempty
  · obtain ⟨empty, -⟩ | ⟨-, c', read', rfl⟩ := finStep_next next'
    · exact absurd empty nonempty
    · have same : readDigit (s.len.toNat - 1) s = .ok c' := read'
      obtain rfl : c = c' := Except.ok.inj (read.symm.trans same)
      exact latch c

/-- A step of the sequencer keeps states that agree in control in agreement, unless one of them faults. -/
theorem sameControl_sequencer (next : sequencerStep s = .next t)
    (next' : sequencerStep (withData g p mc s) = .next t') : SameControl t t' := by
  cases hu : s.unit with
  | idle =>
    rw [sequencerStep_idle hu] at next
    rw [sequencerStep_idle (s := withData g p mc s) hu] at next'
    cases next
    cases next'
    rfl
  | fetch => exact sameControl_fetch hu next next'
  | fin =>
    rw [sequencerStep_fin hu] at next
    rw [sequencerStep_fin (s := withData g p mc s) hu] at next'
    exact sameControl_fin next next'
  | affsel =>
    rw [sequencerStep_affsel hu] at next
    rw [sequencerStep_affsel (s := withData g p mc s) hu] at next'
    cases next
    cases next'
    exact sameControl_selectStep rfl
  | init | dbl | add | aff1 | aff0 => exact sameControl_rom (by simp [hu, romLength]) next next'

end Steps

/-! ## Runs -/

/-- A run that answers a state takes its first step to a state. -/
theorem exists_step_of_run_succ {k : Nat} {s t : State} (ran : run (k + 1) s = .next t) :
    ∃ u, step s = .next u ∧ run k u = .next t := by
  rw [run_succ] at ran
  cases hs : step s with
  | next u => rw [hs] at ran; exact ⟨u, rfl, ran⟩
  | fault f => rw [hs] at ran; cases ran
  | refused r => rw [hs] at ran; cases ran

/-- A step with nothing asked of the host leaves nothing asked. -/
theorem inputs_of_step {s t : State} (quiet : s.inputs = []) (next : step s = .next t) : t.inputs = [] := by
  obtain ⟨-, frame⟩ := sequencerOnlyReadsItsInputs s t next
  obtain ⟨-, -, -, -, -, -, inputs, -⟩ := frame quiet
  exact inputs

/-- Settles O45, by induction on the number of steps. -/
theorem controlIgnoresFieldValues : Obligations.ControlIgnoresFieldValues := by
  intro k
  induction k with
  | zero =>
    intro s s' t t' same _ ran ran'
    cases ran
    cases ran'
    exact same
  | succ k ih =>
    intro s s' t t' same quiet ran ran'
    obtain ⟨g, p, mc, rfl⟩ := exists_withData_of_sameControl same
    obtain ⟨u, next, ran⟩ := exists_step_of_run_succ ran
    obtain ⟨u', next', ran'⟩ := exists_step_of_run_succ ran'
    refine ih u u' t t' ?_ (inputs_of_step quiet next) ran ran'
    rw [step_nil quiet] at next
    rw [step_nil (s := withData g p mc s) quiet] at next'
    exact sameControl_sequencer next next'

end Sys2Proof.Proofs
end

section
/-!
The accept steps of the commands (`45_commands.md`): each legal command on an idle, configured core with the whole next
state (R135 to R140), and an illegal code, which ends at once (R141).
-/

namespace Sys2Proof.Proofs

open Sys2Proof.Machine Sys2Proof.Laws

/-- The accept step of `AFF` with the whole next state (R135, R139). -/
theorem accept_converter {s : State} {p mc : Nat} (config : Configured s p mc) (free : flag .busy s = false) :
    exec .cmdAff s = .next { s with
      status := (s.status &&& 0x80#8) ||| 0x01#8, cmdr := 0x04#8, unit := .affsel, reply := .done } := by
  have check : checkModulus (takeCommand 0x04#8 s) = none :=
    checkModulus_none.mpr ⟨p, mc, config.modulus, config.constant, config.good⟩
  have accepted : exec .cmdAff s = .next (setUnit .affsel (setFlag .busy true (takeCommand 0x04#8 s))) :=
    accept_next.mpr (.inr ⟨free, check, rfl⟩)
  rw [takeCommand_eq, setFlag_eq, accepted_status_eq] at accepted
  exact accepted

/-- Settles O21. -/
theorem unitCommandsAreAccepted : Obligations.UnitCommandsAreAccepted := by
  intro s p mc config free
  exact ⟨accept_primitive config free 0x01#8 .dbl, accept_primitive config free 0x02#8 .add,
    accept_converter config free⟩

/-- Settles O22. -/
theorem driverCommandsAreAccepted : Obligations.DriverCommandsAreAccepted := by
  intro s p mc config fits free
  exact ⟨accept_driver config fits free 0x03#8, accept_driver config fits free 0x05#8⟩

/-- The `STATUS` byte of an illegal command on a core that is not busy: `DONE` and `ERR_CMD` (R141). -/
theorem illegal_status_eq {st : BitVec 8} (free : getFlag st .busy = false) (reserved : st.getLsbD 7 = false) :
    putFlag (putFlag (st &&& 0x81#8) .errCmd true) .done true = 0x12#8 := by
  refine status_ext (by simpa using reserved) fun f => ?_
  rw [getFlag_putFlag, getFlag_putFlag]
  have busy : st[0] = false := free
  cases f <;> simp [getFlag, flagBit, busy]

/-- Settles O25: the accept step raises the error class and enters no unit. -/
theorem illegalCommandEndsAtOnce : Obligations.IllegalCommandEndsAtOnce := by
  intro s c free reserved
  have ended : exec (.cmdIllegal c) s = .next (raiseError .illegalCommand (takeCommand c s)) :=
    execCmdIllegal_next.mpr (.inr ⟨free, rfl⟩)
  rw [ended, raiseError_illegalCommand, takeCommand_eq, setFlag_eq, setFlag_eq, illegal_status_eq free reserved]

end Sys2Proof.Proofs
end

section
/-!
Every command ends (R144, R181). `stepsLeft` bounds the steps that a running core has still to take by what is left of
its microprogram and of its string; every step of the sequencer faults or lowers it, and it is 0 on an idle core.
-/

namespace Sys2Proof.Proofs

open Sys2Proof.Machine Sys2Proof.Laws

/-! ## The steps that are left (R144) -/

/-- From the `FIN` step on, for a string of length `len`: that step, the select step, and the six slots of the longer
branch of the converter. On an empty string the latched 0x00 selects no branch (R115, R127). -/
def stepsFromFin (len : BitVec 16) : Nat := if len = 0#16 then 2 else 8

/-- From the fetch of the symbol at index `i` on: a fetch, a doubling and an addition for each symbol left, and the
fetch that finds none. -/
def stepsFromFetch (len : BitVec 16) (i : Nat) : Nat := 43 * (len.toNat - i) + (1 + stepsFromFin len)

/-- From the end of the running microprogram on, or from the running step in the units that have none. -/
def stepsAfterSlots (s : State) : Nat :=
  match s.unit with
  | .init => stepsFromFetch s.len 1
  | .fetch => stepsFromFetch s.len s.dpos.toNat
  | .dbl => if s.cmdr = 0x01#8 then 0 else 21 + stepsFromFetch s.len (s.dpos.toNat + 1)
  | .add => if s.cmdr = 0x02#8 then 0 else stepsFromFetch s.len (s.dpos.toNat + 1)
  | .fin => stepsFromFin s.len
  | .affsel => if s.lastd = 0x31#8 ∨ s.lastd = 0x30#8 then 7 else 1
  | .idle | .aff1 | .aff0 => 0

/-- A bound on the steps up to the end of the command. -/
def stepsLeft (s : State) : Nat := romLength s.unit - s.upc + stepsAfterSlots s

theorem stepsFromFin_pos (len : BitVec 16) : 0 < stepsFromFin len := by
  unfold stepsFromFin
  split <;> decide

/-- A running core has a step to take. -/
theorem stepsLeft_pos {s : State} (inv : Invariant s) (running : s.unit ≠ .idle) : 0 < stepsLeft s := by
  have bound := inv.upc_bound
  have fin := stepsFromFin_pos s.len
  unfold stepsLeft stepsAfterSlots stepsFromFetch
  cases hu : s.unit with
  | idle => exact absurd hu running
  | init | dbl | add | aff1 | aff0 =>
    rw [hu, if_neg (by decide)] at bound
    omega
  | fetch | fin => dsimp only; omega
  | affsel => dsimp only; split <;> omega

/-! ## One step of a running core -/

/-- `t` has fewer than `n` steps left, and where the command is over it is finished (R143). -/
structure Advanced (n : Nat) (t : State) : Prop where
  fewer : stepsLeft t < n
  finished : t.unit = .idle → flag .done t = true

theorem advanced_finish {n : Nat} (positive : 0 < n) (s : State) : Advanced n (finish s) :=
  ⟨positive, fun _ => by simp⟩

theorem advanced_running {n : Nat} {t : State} (running : t.unit ≠ .idle) (fewer : stepsLeft t < n) : Advanced n t :=
  ⟨fewer, fun idle => absurd idle running⟩

/-- The entry of a microprogram has all its slots to run. -/
theorem stepsLeft_enterPrimitive (u : SeqUnit) (s : State) :
    stepsLeft (enterPrimitive u s) = romLength u + stepsAfterSlots (setUnit u s) := rfl

/-- After a digit there is one symbol less to fetch (R112, R113). -/
theorem advanced_nextDigit {n : Nat} {w : State} (left : w.dpos.toNat < w.len.toNat)
    (fewer : stepsFromFetch w.len (w.dpos.toNat + 1) < n) :
    Advanced n (setUnit .fetch (setDpos (w.dpos + 1#16) w)) := by
  have dpos : (w.dpos + 1#16).toNat = w.dpos.toNat + 1 := by
    have := w.len.isLt
    rw [BitVec.toNat_add, BitVec.toNat_ofNat]
    omega
  refine advanced_running (by simp) ?_
  simpa [stepsLeft, stepsAfterSlots, romLength, dpos] using fewer

/-- The transition at the end of a microprogram leaves no more than the steps that follow it (R142). -/
theorem advanced_endTransition {w : State} (rom : romLength w.unit ≠ 0)
    (left : (w.unit = .dbl ∧ w.cmdr ≠ 0x01#8) ∨ (w.unit = .add ∧ w.cmdr ≠ 0x02#8) → w.dpos.toNat < w.len.toNat) :
    Advanced (1 + stepsAfterSlots w) (endTransition w) := by
  unfold endTransition stepsAfterSlots
  cases hu : w.unit with
  | init =>
    refine advanced_running (by simp) ?_
    simp [stepsLeft, stepsAfterSlots, romLength]
  | dbl =>
    dsimp only
    split_ifs with own one
    · exact advanced_finish (by omega) w
    · have steps : stepsLeft (enterPrimitive .add w) =
          21 + if w.cmdr = 0x02#8 then 0 else stepsFromFetch w.len (w.dpos.toNat + 1) := rfl
      refine advanced_running (by simp) ?_
      rw [steps]
      split_ifs <;> omega
    · exact advanced_nextDigit (left (.inl ⟨hu, own⟩)) (by omega)
  | add =>
    dsimp only
    split_ifs with own
    · exact advanced_finish (by omega) w
    · exact advanced_nextDigit (left (.inr ⟨hu, own⟩)) (by omega)
  | aff1 | aff0 => exact advanced_finish (by omega) _
  | idle | fetch | fin | affsel => exact absurd (hu ▸ rfl) rom

/-- A digit that the driver works on is a symbol of the string (R25). -/
theorem left_of_primitive {s : State} {k : OpKind} {dst sa : Reg} {sb : Option Reg} {v : Nat}
    (a : AtSlot s k dst sa sb v) (hu : (s.unit = .dbl ∧ s.cmdr ≠ 0x01#8) ∨ (s.unit = .add ∧ s.cmdr ≠ 0x02#8)) :
    s.dpos.toNat < s.len.toNat :=
  (a.inv.dpos_digit (atDigit_iff.mpr ⟨hu.imp And.left And.left, driver_of_primitive a hu⟩)).2

/-- A micro-operation is one slot less to run (R77). -/
theorem advanced_retire {s : State} {k : OpKind} {dst sa : Reg} {sb : Option Reg} {v : Nat}
    (a : AtSlot s k dst sa sb v) : Advanced (stepsLeft s) (retire k dst sa sb v s) := by
  have inside := a.inside
  have rom : romLength s.unit ≠ 0 := by omega
  rw [retire_eq_advance]
  by_cases last : s.upc + 1 = romLength s.unit
  · rw [advance_last (s := written k dst sa sb v s) last]
    have steps : stepsLeft s = 1 + stepsAfterSlots s := by rw [stepsLeft]; omega
    rw [steps]
    exact advanced_endTransition (w := setUpc 0 (written k dst sa sb v s)) rom fun hu => left_of_primitive (s := s) a hu
  · rw [advance_inside (s := written k dst sa sb v s) last]
    refine advanced_running (fun idle => rom (congrArg romLength idle)) ?_
    change romLength s.unit - (s.upc + 1) + stepsAfterSlots s < romLength s.unit - s.upc + stepsAfterSlots s
    omega

theorem stepsLeft_fetch {s : State} (unit : s.unit = .fetch) :
    stepsLeft s = stepsFromFetch s.len s.dpos.toNat := by
  simp [stepsLeft, stepsAfterSlots, unit, romLength]

theorem stepsLeft_fin {s : State} (unit : s.unit = .fin) : stepsLeft s = stepsFromFin s.len := by
  simp [stepsLeft, stepsAfterSlots, unit, romLength]

theorem stepsLeft_select {s : State} (unit : s.unit = .affsel) :
    stepsLeft s = if s.lastd = 0x31#8 ∨ s.lastd = 0x30#8 then 7 else 1 := by
  simp [stepsLeft, stepsAfterSlots, unit, romLength]

/-- The fetch of a digit starts its doubling (R112, R113). -/
theorem advanced_digit {s : State} (inv : Invariant s) (unit : s.unit = .fetch) (left : s.dpos.toNat < s.len.toNat)
    (c : Symbol) : Advanced (stepsLeft s) (enterPrimitive .dbl (setCur c s)) := by
  have driver : s.cmdr ≠ 0x01#8 := fun h => by
    have := driverCommand_of_fetch inv (.inl unit)
    rw [h] at this
    exact absurd this (by decide)
  have steps : stepsLeft (enterPrimitive .dbl (setCur c s)) =
      21 + if s.cmdr = 0x01#8 then 0 else 21 + stepsFromFetch s.len (s.dpos.toNat + 1) := rfl
  refine advanced_running (by simp) ?_
  rw [steps, if_neg driver, stepsLeft_fetch unit, stepsFromFetch, stepsFromFetch]
  omega

/-- The end of the loop (R111, R114). -/
theorem advanced_toFin {s t : State} (unit : s.unit = .fetch) (len : t.len = s.len) :
    Advanced (stepsLeft s) (setUnit .fin t) := by
  refine advanced_running (by simp) ?_
  rw [stepsLeft_fetch unit, stepsFromFetch, stepsLeft_fin (s := setUnit .fin t) rfl, setUnit_len, len]
  omega

/-- After the latch there is the select step, and the slots of the converter when the symbol is a digit (R124, R142). -/
theorem advanced_afterFin {s : State} {n : Nat} (two : 2 ≤ n) (digit : s.lastd = 0x31#8 ∨ s.lastd = 0x30#8 → 8 ≤ n) :
    Advanced n (afterFin s) := by
  by_cases converts : s.cmdr = 0x05#8 ∧ (flag .errDigit s = false ∨ s.params.policy = .normalizePartial)
  · rw [afterFin_converter converts.1 converts.2]
    refine advanced_running (by simp) ?_
    rw [stepsLeft_select (s := setUnit .affsel s) rfl, setUnit_lastd]
    split_ifs with selects
    · have := digit selects
      omega
    · omega
  · rw [afterFin_finish converts]
    exact advanced_finish (by omega) s

theorem advanced_finStep {s t : State} (unit : s.unit = .fin) (next : finStep s = .next t) :
    Advanced (stepsLeft s) t := by
  rw [stepsLeft_fin unit, stepsFromFin]
  obtain ⟨empty, rfl⟩ | ⟨nonempty, c, -, rfl⟩ := finStep_next next
  · rw [if_pos empty]
    exact advanced_afterFin le_rfl (by simp)
  · rw [if_neg nonempty]
    exact advanced_afterFin (by decide) fun _ => le_rfl

/-- The select step enters a branch or finishes (R124). -/
theorem advanced_selectStep {s : State} (unit : s.unit = .affsel) : Advanced (stepsLeft s) (selectStep s) := by
  have branch : ∀ u, romLength u ≤ 6 → u ≠ .idle → stepsAfterSlots (setUnit u s) = 0 →
      (s.lastd = 0x31#8 ∨ s.lastd = 0x30#8) → Advanced (stepsLeft s) (enterPrimitive u s) :=
    fun u short running last digit => advanced_running running (by
      rw [stepsLeft_enterPrimitive, last, stepsLeft_select unit, if_pos digit]
      omega)
  unfold selectStep
  split_ifs with one zero
  · exact branch .aff1 (by decide) (by decide) rfl (.inl one)
  · exact branch .aff0 (by decide) (by decide) rfl (.inr zero)
  · refine advanced_finish ?_ _
    rw [stepsLeft_select unit]
    split <;> decide

/-- Every step of a running sequencer that does not fault brings the end of the command nearer. -/
theorem advanced_sequencer {s t : State} (inv : Invariant s) (running : s.unit ≠ .idle)
    (next : sequencerStep s = .next t) : Advanced (stepsLeft s) t := by
  cases sequencerKind_of_next next with
  | slot k dst sa sb v inside fields legal result result_eq =>
    rw [result_eq]
    exact advanced_retire ⟨inv, inside, fields, legal, result⟩
  | word k dst sa sb v injected => exact absurd inv.not_injected injected
  | digit c unit left valid result_eq => exact result_eq ▸ advanced_digit inv unit left c
  | malformed c unit result_eq => exact result_eq ▸ advanced_toFin unit rfl
  | noDigit unit result_eq => exact result_eq ▸ advanced_toFin unit rfl
  | fin c unit => exact advanced_finStep unit (sequencerStep_fin unit ▸ next)
  | select unit result_eq => exact result_eq ▸ advanced_selectStep unit
  | idle unit => exact absurd unit running

/-! ## No step is refused -/

theorem exec_symbol_not_refused (c : Symbol) (s : State) (r : Refusal) : exec (decodeSymbol c) s ≠ .refused r := by
  unfold decodeSymbol
  split_ifs <;> exact fun h => nomatch h

theorem finStep_not_refused (s : State) (r : Refusal) : finStep s ≠ .refused r := by
  unfold finStep
  split
  · exact fun h => nomatch h
  · split <;> exact fun h => nomatch h

theorem sequencerStep_not_refused {s : State} (injected : s.injected = none) (r : Refusal) :
    sequencerStep s ≠ .refused r := by
  cases hu : s.unit with
  | idle => rw [sequencerStep_idle hu]; exact fun h => nomatch h
  | fetch =>
    rw [sequencerStep_fetch hu]
    split
    · split
      · exact fun h => nomatch h
      · exact exec_symbol_not_refused _ s r
    · exact fun h => nomatch h
  | fin => rw [sequencerStep_fin hu]; exact finStep_not_refused s r
  | affsel => rw [sequencerStep_affsel hu]; exact fun h => nomatch h
  | init | dbl | add | aff1 | aff0 =>
    by_cases inside : s.upc < romLength s.unit
    · obtain ⟨k, dst, sa, sb, fields, -⟩ := slotFields_of_lt inside
      rw [sequencerStep_slot injected inside fields]
      exact microStep_not_refused
    · rw [sequencerStep_noWord injected (by simp [hu, romLength]) (Nat.le_of_not_lt inside)]
      exact fun h => nomatch h

/-! ## The end of a run -/

/-- The run of `n` steps is over: in a model fault, or in the finish of the command (R143, R159). -/
def Ends (n : Nat) (s : State) : Prop :=
  (∃ f, run n s = .fault f) ∨ ∃ t, run n s = .next t ∧ t.unit = .idle ∧ flag .busy t = false ∧ flag .done t = true

theorem ends_of_fault {s : State} {f : Fault} (fault : step s = .fault f) : Ends 1 s :=
  .inl ⟨f, (run_one s).trans fault⟩

theorem ends_succ {n : Nat} {s t : State} (next : step s = .next t) (ended : Ends n t) : Ends (n + 1) s := by
  have ran : run (n + 1) s = run n t := by rw [run_succ, next]
  rw [Ends, ran]
  exact ended

theorem ends_zero {s : State} (q : Quiet s) (done : flag .done s = true) : Ends 0 s :=
  .inr ⟨s, rfl, q.idle, not_busy_of_quiet q, done⟩

/-- A core whose host asks nothing comes to the end of its command within the steps that are left, by induction on a
bound of them. -/
theorem exists_ends (n : Nat) : ∀ {s : State}, Invariant s → s.inputs = [] → (s.unit = .idle → flag .done s = true) →
    stepsLeft s ≤ n → ∃ k ≤ n, Ends k s := by
  induction n with
  | zero =>
    intro s inv quiet finished bound
    have idle : s.unit = .idle := by
      by_contra running
      have := stepsLeft_pos inv running
      omega
    exact ⟨0, le_rfl, ends_zero ⟨inv, idle, quiet⟩ (finished idle)⟩
  | succ n ih =>
    intro s inv quiet finished bound
    by_cases idle : s.unit = .idle
    · exact ⟨0, by omega, ends_zero ⟨inv, idle, quiet⟩ (finished idle)⟩
    · cases next : step s with
      | fault f => exact ⟨1, by omega, ends_of_fault next⟩
      | refused r => exact absurd (step_nil quiet ▸ next) (sequencerStep_not_refused inv.not_injected r)
      | next t =>
        have advanced := advanced_sequencer inv idle (step_nil quiet ▸ next)
        have fewer := advanced.fewer
        obtain ⟨k, hk, ended⟩ := ih (stepKeepsTheInvariant s t inv next) (inputs_of_step quiet next) advanced.finished
          (by omega)
        exact ⟨k + 1, by omega, ends_succ next ended⟩

/-! ## The commands -/

/-- The bound of R144 on the steps of the command with code `c`, the accept step among them, as log entry 11 gives
it. -/
def commandBound (c : Nat) (len : BitVec 16) : Nat :=
  if c = 1 ∨ c = 2 then 22 else if c = 4 then 8
  else if c = 3 ∨ c = 5 then 1 + (5 + 42 * (len.toNat - 1) + 6) + (len.toNat + 2) else 1

/-- What is to be known of the instruction `i` that a code stands for, on an idle core: it is not refused, and where it
does not fault the steps left are fewer than the bound. -/
structure Accepts (i : Instr) (bound : Nat) (s : State) : Prop where
  answers : ∀ r, exec i s ≠ .refused r
  advances : ∀ t, exec i s = .next t → Advanced bound t ∧ t.inputs = s.inputs

theorem accepts_of_accept {i : Instr} {bound : Nat} {s : State} {c : Code} {check : State → Option Fault}
    {enter : State → State} (free : flag .busy s = false) (runs : exec i s = accept c check enter s)
    (entered : Advanced bound (enter (setFlag .busy true (takeCommand c s))))
    (inputs : (enter (setFlag .busy true (takeCommand c s))).inputs = s.inputs) : Accepts i bound s := by
  refine ⟨fun r refused => ?_, fun t next => ?_⟩
  · rw [runs, accept, isBusy_eq, free] at refused
    cases checked : check (takeCommand c s) <;> simp [checked] at refused
  · rw [runs] at next
    obtain ⟨busy, -⟩ | ⟨-, -, rfl⟩ := accept_next.mp next
    · rw [free] at busy; cases busy
    · exact ⟨entered, inputs⟩

/-- The five slots of `INIT` and the whole string fit in the bound (R138, R144). -/
theorem advanced_enterInit {s : State} {len : BitVec 16} (string : s.len = len) :
    Advanced (1 + (5 + 42 * (len.toNat - 1) + 6) + (len.toNat + 2)) (setUpc 0 (setUnit .init s)) := by
  subst string
  have steps : stepsLeft (setUpc 0 (setUnit .init s)) = 5 + stepsFromFetch s.len 1 := rfl
  have positive : s.len ≠ 0#16 → 1 ≤ s.len.toNat := fun h =>
    Nat.one_le_iff_ne_zero.mpr fun zero => h (BitVec.eq_of_toNat_eq zero)
  refine advanced_running (by simp) ?_
  rw [steps, stepsFromFetch, stepsFromFin]
  split_ifs with empty
  · omega
  · have := positive empty
    omega

theorem advanced_enterSelect (s : State) : Advanced 8 (setUnit .affsel s) := by
  refine advanced_running (by simp) ?_
  rw [stepsLeft_select (s := setUnit .affsel s) rfl]
  split_ifs <;> omega

theorem commandBound_illegal {c : Nat} (illegal : c = 0 ∨ 6 ≤ c) (len : BitVec 16) : commandBound c len = 1 := by
  rw [commandBound, if_neg (by omega), if_neg (by omega), if_neg (by omega)]

theorem decodeCommand_illegal {c : Nat} (illegal : c = 0 ∨ 6 ≤ c) (fits : c < 256) :
    decodeCommand (BitVec.ofNat 8 c) = .cmdIllegal (BitVec.ofNat 8 c) := by
  obtain ⟨-, -, -, -, -, outside, -⟩ := commandAndSymbolCodesDecode
  refine outside _ ?_
  rwa [BitVec.toNat_ofNat, Nat.mod_eq_of_lt fits]

/-- An illegal code ends at once (R141). -/
theorem accepts_illegal {s : State} (q : Quiet s) (c : Code) : Accepts (.cmdIllegal c) 1 s := by
  have next : exec (.cmdIllegal c) s = .next { s with status := 0x12#8, cmdr := c, reply := .done } :=
    illegalCommandEndsAtOnce s c (not_busy_of_quiet q) q.inv.reserved_bit
  refine ⟨fun r refused => ?_, fun t ended => ?_⟩
  · rw [next] at refused
    cases refused
  · rw [next] at ended
    cases ended
    exact ⟨⟨by simp [stepsLeft, stepsAfterSlots, q.idle, romLength], 
      fun _ => show getFlag 0x12#8 .done = true by decide⟩, rfl⟩

theorem accepts_driver {s : State} (free : flag .busy s = false) {i : Instr} {c : Code}
    (runs : exec i s = accept c checkDriver (fun t => setUpc 0 (setUnit .init t)) s) :
    Accepts i (1 + (5 + 42 * (s.len.toNat - 1) + 6) + (s.len.toNat + 2)) s := by
  have entered : (setFlag .busy true (takeCommand c s)).len = s.len := rfl
  exact accepts_of_accept free runs (advanced_enterInit entered) (by simp)

/-- Each code on a quiet core (R135 to R141). -/
theorem accepts_code {s : State} {c : Nat} (q : Quiet s) (fits : c < 256) :
    Accepts (decodeCommand (BitVec.ofNat 8 c)) (commandBound c s.len) s := by
  have free := not_busy_of_quiet q
  have codes : c = 1 ∨ c = 2 ∨ c = 3 ∨ c = 4 ∨ c = 5 ∨ (c = 0 ∨ 6 ≤ c) := by omega
  obtain rfl | rfl | rfl | rfl | rfl | illegal := codes
  · exact accepts_of_accept (i := .cmdDbl) (enter := enterPrimitive .dbl) free rfl
      (advanced_running (by simp) (show 21 < 22 by decide)) rfl
  · exact accepts_of_accept (i := .cmdAdd) (enter := enterPrimitive .add) free rfl
      (advanced_running (by simp) (show 21 < 22 by decide)) rfl
  · exact accepts_driver (i := .cmdSmul) (c := 0x03#8) free rfl
  · exact accepts_of_accept (i := .cmdAff) (enter := setUnit .affsel) free rfl (advanced_enterSelect _) rfl
  · exact accepts_driver (i := .cmdKp) (c := 0x05#8) free rfl
  · rw [commandBound_illegal illegal, decodeCommand_illegal illegal fits]
    exact accepts_illegal q _

/-- Settles O58: the accept step, and then the steps that are left. -/
theorem everyCommandEnds : Obligations.EveryCommandEnds := by
  intro s c q fits
  obtain ⟨-, -, -, command, -⟩ := stepRunsTheDecodedInstruction
  have accepted : step (issue c s) = exec (decodeCommand (BitVec.ofNat 8 c)) s := by
    rw [command (issue c s) c [] rfl (by simp) (not_busy_of_quiet (s := s) q) fits]
    exact congrArg (fun is => exec (decodeCommand (BitVec.ofNat 8 c)) { s with inputs := is }) q.inputs.symm
  have accepts := accepts_code q fits
  have bound : 1 ≤ commandBound c s.len := by unfold commandBound; split_ifs <;> omega
  cases next : step (issue c s) with
  | fault f => exact ⟨1, le_rfl, bound, ends_of_fault next⟩
  | refused r => exact absurd (accepted ▸ next) (accepts.answers r)
  | next t =>
    obtain ⟨advanced, inputs⟩ := accepts.advances t (accepted ▸ next)
    have fewer := advanced.fewer
    have inv : Invariant t := stepKeepsTheInvariant (issue c s) t (Invariant_of_eq q.inv rfl) next
    obtain ⟨k, hk, ended⟩ := exists_ends (commandBound c s.len - 1) inv (inputs.trans q.inputs) advanced.finished
      (by omega)
    exact ⟨k + 1, by omega, show k + 1 ≤ commandBound c s.len by omega, ends_succ next ended⟩

end Sys2Proof.Proofs
end

section
/-!
Command `KP` as a function (R140, R148): the driver as under `SMUL`, then the converter on the driven accumulator, with
the values of `STATUS` of the table of R140.
-/

namespace Sys2Proof.Proofs

open Sys2Proof.Machine Sys2Proof.Laws

/-- The driven accumulator satisfies the invariant of R104: the two primitives recompute the cached powers of `Z`. -/
theorem driven_cached {F : Type} [CommRing F] (dig : Memory) (ax ay : F) (m : Nat) :
    (driven dig ax ay m).z2 = (driven dig ax ay m).z ^ 2 ∧ (driven dig ax ay m).z3 = (driven dig ax ay m).z ^ 3 := by
  cases m with
  | zero => exact ⟨(one_pow 2).symm, (one_pow 3).symm⟩
  | succ m =>
    rw [driven]
    split <;> exact ⟨rfl, rfl⟩

theorem sameRegs_mono {rs rs' : List Reg} (sub : rs ⊆ rs') {s t : State} (h : SameRegs rs' s t) : SameRegs rs s t :=
  fun r hr => h r (sub hr)

/-! ## From the select step through a branch (R124 to R128) -/

/-- What the finish of a branch makes of `STATUS` (R125, R126, R143). -/
def branchFinish (b : SeqUnit) (st : BitVec 8) : BitVec 8 :=
  if b = .aff1 then (st &&& 0xFE#8) ||| 0x62#8 else (st &&& 0xBE#8) ||| 0x22#8

theorem microprogramEnd_branch {w : State} (branch : w.unit = .aff1 ∨ w.unit = .aff0) :
    microprogramEnd w = { w with unit := .idle, status := branchFinish w.unit w.status } := by
  obtain hu | hu := branch <;> simp [microprogramEnd, branchFinish, hu]

theorem branch_of_digit {b : SeqUnit} {d : Symbol} (digit : BranchDigit b d) : b = .aff1 ∨ b = .aff0 :=
  digit.imp And.left And.left

/-- The select step enters the branch of the digit in `LASTD` (R16, R124). -/
theorem step_select_branch {s : State} {b : SeqUnit} (unit : s.unit = .affsel) (quiet : s.inputs = [])
    (digit : BranchDigit b s.lastd) : step s = .next { s with regs := s.regs.dropScratch, unit := b, upc := 0 } := by
  obtain ⟨one, zero, -⟩ := selectStepReadsLastdAlone s unit quiet
  obtain ⟨rfl, d⟩ | ⟨rfl, d⟩ := digit
  · exact one d
  · exact zero d

/-- The converter on an accumulator that satisfies the invariant and has `Z` not 0, with its frame: the select step and
one step per slot, after which the core is idle with the affine coordinates in `XA`, `YA`. -/
theorem Loaded.run_branch {s : State} {p mc : Nat} [Fact p.Prime] {c : Coordinates (ZMod p)} {ax ay : ZMod p}
    {b : SeqUnit} (h : Loaded s p mc c ax ay) (unit : s.unit = .affsel) (digit : BranchDigit b s.lastd)
    (hz : c.z ≠ 0) (z2 : c.z2 = c.z ^ 2) (z3 : c.z3 = c.z ^ 3) :
    ∃ t, run (1 + romLength b) s = .next t ∧
      t = { s with
        regs := t.regs, unit := .idle, upc := 0, status := branchFinish b s.status, trace := s.trace ++ romEvents b } ∧
      SameRegs [.x, .y, .z, .z2, .z3, .ax, .ay] s t ∧
      Means t p mc .xa (c.x * (c.z ^ 2)⁻¹) ∧ Means t p mc .ya (c.y * (c.z ^ 3)⁻¹) := by
  have branch := branch_of_digit digit
  have entered := h.enter b s.cur
  have start : Start { s with cur := s.cur, regs := s.regs.dropScratch, unit := b, upc := 0 } p mc
      [.x, .y, .z, .z2, .z3, .ax, .ay] (startValues c ax ay) :=
    { quiet := entered.quiet
      entry := entered.entry
      injected := entered.injected
      config := entered.config
      supplied := supplied_converter branch
      represents := fun r hr => (represents_startValues entered.point entered.x entered.y r hr).2
      invertible := fun n dst sa sb fields => converter_invertible branch hz z2 z3 ax ay fields }
  obtain ⟨w, ran, upc, progress⟩ := start.run_microprogram (by obtain rfl | rfl := branch <;> simp [romLength])
  have unitW : w.unit = b := by rw [progress.frame]
  have ended : microprogramEnd w = { w with unit := .idle, status := branchFinish b w.status } := by
    rw [microprogramEnd_branch (unitW ▸ branch), unitW]
  rw [ended] at ran
  obtain ⟨writesX, writesY⟩ := converter_writes branch
  obtain ⟨valueX, valueY⟩ := valuesAfter_converter branch z2 z3 ax ay
  have params : s.params = w.params := by rw [progress.frame]
  have means : ∀ {r}, writtenBefore b (romLength b) r = true →
      Means { w with unit := .idle, status := branchFinish b w.status } p mc r
        (valuesAfter b (romLength b) (startValues c ax ay) r) := fun written =>
    (represents_iff (ne_one_of_writtenBefore written)).mp ((progress.represents _ (.inr written)).of_same rfl rfl)
  refine ⟨_, (run_add ((run_one s).trans (step_select_branch unit h.quiet digit)) _).trans ran, ?frame,
    sameRegs_of_branch digit progress.kept, ?x, ?y⟩
  case frame =>
    have frame := progress.frame
    rw [upc] at frame
    rw [frame]
    rfl
  case x => rw [← div_eq_mul_inv, ← valueX]; exact means writesX
  case y => rw [← div_eq_mul_inv, ← valueY]; exact means writesY

/-! ## Command `KP` (R140) -/

/-- What command `KP` leaves, whatever its converter did: the driven accumulator, and by an equation all that is no
register. -/
def ChainResult (s : State) (p mc : Nat) (ax ay : ZMod p) (m : Nat) (last : Symbol) (t : State) (status : BitVec 8)
    (conv : List Event) : Prop :=
  PointMeans t p mc (driven s.dig ax ay m) ∧ SameRegs [.ax, .ay] s t ∧
    t = { s with
      regs := t.regs, cur := t.cur, cmdr := 0x05#8, dpos := BitVec.ofNat 16 (1 + m), lastd := last
      status := status, trace := s.trace ++ (romEvents .init ++ digitEvents s.dig m ++ conv), reply := .done }

section Chain
variable {s t u : State} {p mc m : Nat} {ax ay : ZMod p} {last : Symbol}

/-- The steps after the loop keep the accumulator and the addend. -/
theorem Driven.chainResult (h : Driven s 0x05 p mc ax ay m u) (q : Quiet s) {status : BitVec 8} {conv : List Event}
    (same : SameRegs [.x, .y, .z, .z2, .z3, .ax, .ay] u t)
    (frame : t = { u with
      regs := t.regs, lastd := last, status := status, unit := .idle, upc := 0, trace := u.trace ++ conv }) :
    ChainResult s p mc ax ay m last t status conv := by
  have stored : ∀ r, r.isPoint = true → r ∈ [Reg.x, .y, .z, .z2, .z3, .ax, .ay] := by
    intro r
    cases r <;> decide
  refine ⟨pointMeans_of_same h.point (by rw [frame]) fun r point => same r (stored r point),
    sameRegs_trans (sameRegs_mono (by decide) h.same) (sameRegs_mono (by decide) same), ?frame⟩
  rw [frame, h.frame]
  simp only [q.idle, Invariant_upc_idle q.inv q.idle, List.append_assoc]

/-- The symbols of the string decide whether `ERR_DIGIT` is set at the `FIN` step (R114). -/
theorem errDigit_statusAtFin (s : State) (m : Nat) :
    getFlag (statusAtFin s m) .errDigit = decide (m + 1 < s.len.toNat) := by
  unfold statusAtFin
  split <;> simp_all [getFlag, flagBit]

/-- A malformed symbol under `ABORT` ends the command at the `FIN` step (R148). -/
theorem run_chain_abort (q : Quiet s) (config : Configured s p mc) (x : Means s p mc .ax ax) (y : Means s p mc .ay ay)
    (string : Processes s m last) (stopped : m + 1 < s.len.toNat) (abort : s.params.policy = .abort) :
    ∃ t, run (8 + 22 * m + 21 * onesTo s.dig m) (issue 0x05 s) = .next t ∧
      ChainResult s p mc ax ay m last t 0x06#8 [] ∧ SameRegs [.xa, .ya] s t := by
  obtain ⟨u, ran, unit, status, h⟩ := run_driver q config x y (.inr rfl) string
  have latched := finStepLatchesAndContinues u last unit (h.loaded q config x y).quiet (h.lastSymbol string)
  have raised : flag .errDigit u = true := by rw [flag, status, errDigit_statusAtFin, decide_eq_true stopped]
  have policy : u.params.policy = .abort := h.string.1 ▸ abort
  have byte : (u.status &&& 0xFE#8) ||| 0x02#8 = 0x06#8 := by rw [status, statusAtFin, if_pos stopped]; rfl
  rw [if_neg (by simp [raised, policy]), byte] at latched
  have steps : (7 + 22 * m + 21 * onesTo s.dig m) + 1 = 8 + 22 * m + 21 * onesTo s.dig m := by ring
  have ran := (run_snoc ran).trans latched
  rw [steps] at ran
  exact ⟨_, ran, h.chainResult q (fun _ _ => rfl) (by rw [List.append_nil]),
    sameRegs_mono (by decide) h.same⟩

/-- Otherwise the converter is next, with the flags of the loop in `STATUS` (R140, R148). -/
theorem run_chain_to_select (q : Quiet s) (config : Configured s p mc) (x : Means s p mc .ax ax)
    (y : Means s p mc .ay ay) (string : Processes s m last)
    (converts : ¬ (m + 1 < s.len.toNat ∧ s.params.policy = .abort)) :
    ∃ u, run (8 + 22 * m + 21 * onesTo s.dig m) (issue 0x05 s) = .next u ∧ u.unit = .affsel ∧ u.lastd = last ∧
      u.status = statusAtFin s m ∧ Driven s 0x05 p mc ax ay m u := by
  obtain ⟨u, ran, unit, status, h⟩ := run_driver q config x y (.inr rfl) string
  have latched := finStepLatchesAndContinues u last unit (h.loaded q config x y).quiet (h.lastSymbol string)
  have goesOn : flag .errDigit u = false ∨ u.params.policy = .normalizePartial := by
    rw [flag, status, errDigit_statusAtFin, h.string.1, decide_eq_false_iff_not]
    by_cases stopped : m + 1 < s.len.toNat
    · cases policy : s.params.policy with
      | abort => exact absurd ⟨stopped, policy⟩ converts
      | normalizePartial => exact .inr rfl
    · exact .inl stopped
  have cmdr : u.cmdr = 0x05#8 := by rw [h.frame]
  rw [if_pos ⟨cmdr, goesOn⟩] at latched
  have steps : (7 + 22 * m + 21 * onesTo s.dig m) + 1 = 8 + 22 * m + 21 * onesTo s.dig m := by ring
  have ran := (run_snoc ran).trans latched
  rw [steps] at ran
  exact ⟨_, ran, rfl, rfl, status, h.of_frame rfl⟩

/-- A last symbol that is a digit selects a branch of the converter (R125, R126, R140). -/
theorem run_chain_branch (q : Quiet s) (config : Configured s p mc) (x : Means s p mc .ax ax)
    (y : Means s p mc .ay ay) (string : Processes s m last)
    (converts : ¬ (m + 1 < s.len.toNat ∧ s.params.policy = .abort)) {b : SeqUnit} (digit : BranchDigit b last)
    (hz : (driven s.dig ax ay m).z ≠ 0) :
    ∃ t, run (8 + 22 * m + 21 * onesTo s.dig m + (1 + romLength b)) (issue 0x05 s) = .next t ∧
      ChainResult s p mc ax ay m last t (branchFinish b (statusAtFin s m)) (romEvents b) ∧
      Means t p mc .xa ((driven s.dig ax ay m).x * ((driven s.dig ax ay m).z ^ 2)⁻¹) ∧
      Means t p mc .ya ((driven s.dig ax ay m).y * ((driven s.dig ax ay m).z ^ 3)⁻¹) := by
  obtain ⟨prime, -, -⟩ := (goodModulus_iff _ _).mp config.good
  have := Fact.mk prime
  obtain ⟨u, ran, unit, rfl, status, h⟩ := run_chain_to_select q config x y string converts
  obtain ⟨z2, z3⟩ := driven_cached s.dig ax ay m
  obtain ⟨t, ran', frame, same, meansX, meansY⟩ := (h.loaded q config x y).run_branch unit digit hz z2 z3
  rw [status] at frame
  exact ⟨t, (run_add ran _).trans ran', h.chainResult q same frame, meansX, meansY⟩

/-- Any other last symbol ends the command at the select step (R127, R140). -/
theorem run_chain_unsupported (q : Quiet s) (config : Configured s p mc) (x : Means s p mc .ax ax)
    (y : Means s p mc .ay ay) (string : Processes s m last)
    (converts : ¬ (m + 1 < s.len.toNat ∧ s.params.policy = .abort)) (not1 : last ≠ 0x31#8) (not0 : last ≠ 0x30#8) :
    ∃ t, run (8 + 22 * m + 21 * onesTo s.dig m + 1) (issue 0x05 s) = .next t ∧
      ChainResult s p mc ax ay m last t (((statusAtFin s m ||| 0x08#8) &&& 0xFE#8) ||| 0x02#8) [] ∧
      SameRegs [.xa, .ya] s t := by
  obtain ⟨u, ran, unit, rfl, status, h⟩ := run_chain_to_select q config x y string converts
  obtain ⟨-, -, other⟩ := selectStepReadsLastdAlone u unit (h.loaded q config x y).quiet
  exact ⟨_, (run_snoc ran).trans (other not1 not0),
    h.chainResult q (fun _ _ => rfl) (by rw [List.append_nil, status]),
    sameRegs_mono (by decide) h.same⟩

end Chain

/-- Settles O55: each line of the table of R140 is a run of its own, and the bytes of `STATUS` are those of the loop and
of the finish. -/
theorem chainCommandFollowsItsTable : Obligations.ChainCommandFollowsItsTable := by
  intro s p mc ax ay m last q config x y string
  dsimp only
  refine ⟨fun ⟨stopped, abort⟩ => run_chain_abort q config x y string stopped abort,
    fun converts one hz => ?one, fun converts zero hz => ?zero, fun converts not1 not0 => ?unsupported⟩
  case one =>
    have byte : branchFinish .aff1 (statusAtFin s m) = if m + 1 < s.len.toNat then 0x66#8 else 0x62#8 := by
      unfold statusAtFin
      split <;> rfl
    exact byte ▸ run_chain_branch q config x y string converts (.inl ⟨rfl, one⟩) hz
  case zero =>
    have byte : branchFinish .aff0 (statusAtFin s m) = if m + 1 < s.len.toNat then 0x26#8 else 0x22#8 := by
      unfold statusAtFin
      split <;> rfl
    exact byte ▸ run_chain_branch q config x y string converts (.inr ⟨rfl, zero⟩) hz
  case unsupported =>
    have byte : ((statusAtFin s m ||| 0x08#8) &&& 0xFE#8) ||| 0x02#8 =
        if m + 1 < s.len.toNat then 0x0E#8 else 0x0A#8 := by
      unfold statusAtFin
      split <;> rfl
    exact byte ▸ run_chain_unsupported q config x y string converts not1 not0

end Sys2Proof.Proofs
end

section
/-!
The model faults of a micro-operation and of the accept step, in the order of their checks (R156, R160 to R162): what
each operand read and each check answers, and that the first that fails is the fault of the whole.
-/

namespace Sys2Proof.Proofs

open Sys2Proof.Machine Sys2Proof.Laws

/-! ## The operands of a micro-operation -/

/-- An unwritten register is not read (R160). -/
theorem readReg_unwritten {s : State} {r : Reg} (notOne : r ≠ .one) (unwritten : s.regs.get r = .unwritten) :
    readReg r s = .error (.unwrittenRead (.reg r)) := by
  rw [readReg, registerValue_of_ne_one notOne, unwritten]

/-- A value at or above `P` is not read (R161). -/
theorem readReg_nonCanonical {s : State} {r : Reg} {p v : Nat} (hp : s.p = .value p) (notOne : r ≠ .one)
    (value : s.regs.get r = .value v) (above : p ≤ v) : readReg r s = .error (.nonCanonical r) := by
  rw [readReg, registerValue_of_ne_one notOne, value]
  simp only [readModulus_ok.mpr hp, if_pos above]

/-- The first source is checked before anything else (R156). -/
theorem microResult_of_first_error {s : State} {k : OpKind} {sa : Reg} {sb : Option Reg} {f : Fault}
    (first : readReg sa s = .error f) : microResult k sa sb s = .error f := by
  rw [microResult, first]

/-- The second source is checked next. -/
theorem microResult_of_second_error {s : State} {k : OpKind} {sa r : Reg} {a : Nat} {f : Fault}
    (first : readReg sa s = .ok a) (second : readReg r s = .error f) : microResult k sa (some r) s = .error f := by
  rw [microResult, first, readSecond, second]

/-- `FINV` has one source (R57). -/
theorem oneSource_of_inv {i : Instr} {dst sa : Reg} {sb : Option Reg}
    (fields : microFields i = some (.inv, dst, sa, sb)) : sb = none := by
  cases i <;> cases fields
  rfl

/-- Settles O16. -/
theorem operandFaultsComeInOrder : Obligations.OperandFaultsComeInOrder := by
  intro i k dst sa sb s p mc fields wf hp hmc
  have legal : dst.legalDst = true := (encode_of_microFields fields).2 ▸ wf
  have faults : ∀ {f}, microResult k sa sb s = .error f → exec i s = .fault f := fun error => by
    rw [exec_of_microFields fields]
    exact microStep_fault.mpr (.inr ⟨legal, error⟩)
  have read : ∀ {r a}, Reads s p mc r a → readReg r s = .ok a := readReg_of_reads hp hmc
  refine ⟨fun notOne unwritten => ?firstUnwritten, fun v notOne value above => ?firstAbove,
    fun a r ra second notOne unwritten => ?secondUnwritten, fun a r v ra second notOne value above => ?secondAbove,
    fun inv zero => ?zero⟩
  case firstUnwritten => exact faults (microResult_of_first_error (readReg_unwritten notOne unwritten))
  case firstAbove => exact faults (microResult_of_first_error (readReg_nonCanonical hp notOne value above))
  case secondUnwritten =>
    subst second
    exact faults (microResult_of_second_error (read ra) (readReg_unwritten notOne unwritten))
  case secondAbove =>
    subst second
    exact faults (microResult_of_second_error (read ra) (readReg_nonCanonical hp notOne value above))
  case zero =>
    subst inv
    obtain rfl := oneSource_of_inv fields
    exact faults (microResult_finvZero hp hmc zero)

/-! ## The checks of the accept step -/

/-- The five legal commands (R68). -/
def legalCommands : List Instr := [.cmdDbl, .cmdAdd, .cmdSmul, .cmdAff, .cmdKp]

/-- All the ways in which the accept step of a legal command faults: the core is not busy, and the check of `P` and
`MC` fails, or for `SMUL` and `KP` that of `LEN` after it (R161). -/
theorem exec_command_fault {i : Instr} (legal : i ∈ legalCommands) {s : State} {f : Fault} :
    exec i s = .fault f ↔ flag .busy s = false ∧
      (checkModulus s = some f ∨ ((i = .cmdSmul ∨ i = .cmdKp) ∧ checkDriver s = some f)) := by
  have unit : ∀ {c enter}, accept c checkModulus enter s = .fault f ↔
      flag .busy s = false ∧ checkModulus s = some f := accept_fault
  have driver : ∀ {c enter}, accept c checkDriver enter s = .fault f ↔
      flag .busy s = false ∧ (checkModulus s = some f ∨ checkDriver s = some f) := fun {c enter} => by
    have same : checkDriver (takeCommand c s) = checkDriver s := by
      unfold checkDriver
      rfl
    rw [accept_fault, same]
    refine and_congr_right fun _ => ⟨.inr, fun h => h.elim (fun modulus => ?_) id⟩
    rw [checkDriver, modulus]
  simp only [legalCommands, List.mem_cons, List.not_mem_nil, or_false] at legal
  obtain rfl | rfl | rfl | rfl | rfl := legal
  · simpa [execCmdDbl] using unit
  · simpa [execCmdAdd] using unit
  · simpa [execCmdSmul] using driver
  · simpa [execCmdAff] using unit
  · simpa [execCmdKp] using driver

/-- Settles O23. -/
theorem acceptChecksComeInOrder : Obligations.AcceptChecksComeInOrder := by
  intro s i legal free
  have faults : ∀ {f}, checkModulus s = some f → exec i s = .fault f := fun failed =>
    (exec_command_fault legal).mpr ⟨free, .inl failed⟩
  refine ⟨fun hp => faults ?modulus, fun p hp hmc => faults ?constant, fun p mc hp hmc bad => faults ?bad,
    fun p mc hp hmc good long driver => ?length⟩
  case modulus =>
    rw [checkModulus, readModulus_error.mpr ⟨hp, rfl⟩]
  case constant =>
    rw [checkModulus, readModulus_ok.mpr hp]
    simp only [readConstant_error.mpr ⟨hmc, rfl⟩]
  case bad =>
    rw [checkModulus, readModulus_ok.mpr hp]
    simp only [readConstant_ok.mpr hmc]
    rw [if_neg fun good => bad ((goodModulus_iff _ _).mp good)]
  case length =>
    have passed : checkModulus s = none := checkModulus_none.mpr ⟨p, mc, hp, hmc, (goodModulus_iff _ _).mpr good⟩
    refine (exec_command_fault legal).mpr ⟨free, .inr ⟨driver, ?_⟩⟩
    rw [checkDriver, passed]
    exact if_pos long

end Sys2Proof.Proofs
end

section
/-!
Who takes the step, as an equation for the step itself, so that it speaks of a step that faults too, and which of the
commands can fault.
-/

namespace Sys2Proof.Proofs

open Sys2Proof.Machine Sys2Proof.Laws

/-- Every step is one of the sequencer's, an accept step, or a transaction, which answers a state and changes no flag but
by a reset (R45, R142, R170; log entry 5). -/
theorem step_taken (s : State) :
    (∃ is, step s = faultExit s (sequencerStep { s with inputs := is })) ∨
    (∃ v rest, s.inputs = .write 0x0000 v :: rest ∧
      step s = faultExit s (exec (decodeCommand (BitVec.ofNat 8 v)) { s with inputs := rest })) ∨
    (∃ t, step s = .next t ∧ (ResetTaken s t ∨ t.status = s.status)) := by
  cases hi : s.inputs with
  | nil => exact .inl ⟨s.inputs, by rw [faultExit_of_none (by rw [hi]; rfl)]; exact step_nil hi⟩
  | cons i rest =>
    cases i with
    | tick => exact .inl ⟨rest, step_tick hi⟩
    | waitDone =>
      cases hd : flag .done s with
      | false => exact .inl ⟨s.inputs, step_wait hi hd⟩
      | true => exact .inr (.inr ⟨_, step_wait_over hi hd, .inr rfl⟩)
    | reset => exact .inr (.inr ⟨_, step_reset hi, .inl (resetTaken_of_reset (by simp [hi]) rfl)⟩)
    | read ha => exact .inr (.inr ⟨_, step_read hi, .inr (by rw [hostRead_eq]; rfl)⟩)
    | write ha v =>
      by_cases command : ha = 0x0000 ∧ hostWriteLegal ha v s = true
      · obtain ⟨rfl, legal⟩ := command
        exact .inr (.inl ⟨v, rest, rfl, step_command hi legal⟩)
      · refine .inr (.inr ⟨_, step_write hi command, .inr ?_⟩)
        obtain refused | ⟨r, -, -, -, -, stored⟩ := hostWrite_cases ha v { s with inputs := rest }
        · rw [refused]
          rfl
        · obtain ⟨-, -, status, -⟩ := hostStore_frame r v { s with inputs := rest }
          rw [stored]
          exact status

/-- Only a legal command faults: an illegal code ends at once (R141). -/
theorem legalCommand_of_fault {c : Code} {s : State} {f : Fault} (fault : exec (decodeCommand c) s = .fault f) :
    decodeCommand c ∈ legalCommands := by
  have named : decodeCommand c ∈ legalCommands ∨ decodeCommand c = .cmdIllegal c := by
    simpa [legalCommands, or_assoc] using decodeCommand_cases c
  refine named.resolve_right fun illegal => ?_
  rw [illegal, exec_cmdIllegal, execCmdIllegal] at fault
  split at fault <;> cases fault

end Sys2Proof.Proofs
end

section
/-!
The model faults that a reachable state can end in (R160 to R162): the first reads of inputs at the slots of the
microprograms, the inversions of 0, the reads of `DIG`, and the checks of the accept step. The invariant excludes every
other.
-/

namespace Sys2Proof.Proofs

open Sys2Proof.Machine Sys2Proof.Laws

/-! ## The slots of the microprograms -/

/-- A slot's source other than `ONE` is an input read there for the first time, or an earlier slot read or wrote it. -/
theorem inputReads_or_touched {u : SeqUnit} {k : Nat} {r : Reg} (inside : k < romLength u)
    (reads : slotReads u k r = true) (notOne : r ≠ .one) :
    r ∈ inputReads u k ∨ (writtenBefore u k r || readBefore u k r) = true := by
  revert notOne reads
  revert k
  cases u <;> cases r <;> decide

/-- `FINV` stands at the slots at which it can meet 0, and at slot 5 of `AFF1`, where it reads `R0` (R162). -/
theorem inverts_or_cube {u : SeqUnit} {k : Nat} {dst sa : Reg} {sb : Option Reg}
    (fields : slotFields u k = some (.inv, dst, sa, sb)) : inverts u k = true ∨ (u = .aff1 ∧ k = 4 ∧ sa = .r0) := by
  have listed : ∀ k < romLength u, ∀ f ∈ slotFields u k, f.1 = .inv →
      inverts u k = true ∨ (u = .aff1 ∧ k = 4 ∧ f.2.2.1 = .r0) := by
    cases u <;> decide
  exact listed k (lt_of_slotFields fields) _ fields rfl

section Slot
variable {s : State} {f : Fault}

/-- An operand read of a slot faults on an input alone: what an earlier slot read or wrote is canonical, and `P`, `MC`
and with them `ONE` are readable in a run (R19, R21, R160, R161). -/
theorem listedFault_of_readReg (inv : Invariant s) (run : Running s) (inside : s.upc < romLength s.unit) {r : Reg}
    (reads : slotReads s.unit s.upc r = true) (error : readReg r s = .error f) : listedFault s f := by
  obtain ⟨p, mc, hp, hmc, good⟩ := run.modulus
  have input : r ≠ .one → ¬ Holds s r → r ∈ inputReads s.unit s.upc := fun notOne fails =>
    (inputReads_or_touched inside reads notOne).resolve_right fun touched => fails (inv.slots_held r notOne touched)
  obtain ⟨notOne, unwritten, rfl⟩ | ⟨noModulus, -⟩ | ⟨-, noConstant, -⟩ | ⟨q, v, hq, value, above, rfl⟩ :=
    readReg_error error
  · refine ⟨input notOne ?_, unwritten⟩
    rintro ⟨v, -, value, -⟩
    rw [unwritten] at value
    cases value
  · rw [hp] at noModulus
    cases noModulus
  · rw [hmc] at noConstant
    cases noConstant
  · obtain rfl : p = q := by simpa [hp] using hq
    have notReadable : ∀ w, ¬ readReg r s = .ok w := fun w read => by
      rw [error] at read
      cases read
    by_cases one : r = .one
    · subst one
      rw [registerValue_one hp hmc] at value
      cases value
      have below := fpOne_lt s.params mc (p := p) (by have := ((goodModulus_iff _ _).mp good).2.1; omega)
      omega
    · have stored : s.regs.get r = .value v := by
        rw [registerValue_of_ne_one one] at value
        split at value
        · cases value
        · cases value
          assumption
      exact ⟨input one fun holds => (readReg_of_holds holds).elim notReadable, v, p, stored, hp, above⟩

/-- Slot 5 of `AFF1` inverts no zero: slot 4 multiplied two values that are not 0 (R125, R162). -/
theorem cube_read_ne_zero (inv : Invariant s) (hu : s.unit = .aff1) (hk : s.upc = 4) : readReg .r0 s ≠ .ok 0 :=
  fun read => (inv.converter_nonzero hu (by omega)).1 (readReg_ok_value (by decide) read)

/-- The faults of a slot: an operand read, or `FINV` of 0 (R160, R161, R162). -/
theorem listedFault_of_microResult (inv : Invariant s) {op : OpKind} {dst sa : Reg} {sb : Option Reg}
    (fields : slotFields s.unit s.upc = some (op, dst, sa, sb)) (error : microResult op sa sb s = .error f) :
    listedFault s f := by
  have inside := lt_of_slotFields fields
  have run : Running s := Invariant_running inv (by intro hu; simp [hu, romLength] at inside)
  obtain first | ⟨-, -, second⟩ | ⟨-, -, noConstant, -⟩ | ⟨zero, rfl, rfl⟩ := microResult_error error
  · exact listedFault_of_readReg inv run inside (by simp [slotReads, fields]) first
  · cases sb with
    | none => cases second
    | some r => exact listedFault_of_readReg inv run inside (by simp [slotReads, fields]) second
  · obtain ⟨p, mc, -, hmc, -⟩ := run.modulus
    rw [hmc] at noConstant
    cases noConstant
  · obtain listed | ⟨hu, hk, rfl⟩ := inverts_or_cube fields
    · exact listed
    · exact absurd zero (cube_read_ne_zero inv hu hk)

/-! ## The digit buffer -/

/-- A read of an entry that exists faults only where nothing has written it (R42, R160). -/
theorem readDigit_error {i : Nat} (below : i < s.params.ndig) (error : readDigit i s = .error f) :
    Memory.read s.dig i = none ∧ f = .unwrittenRead (.dig i) := by
  rw [readDigit, if_pos below] at error
  cases entry : Memory.read s.dig i with
  | none => rw [entry] at error; cases error; exact ⟨rfl, rfl⟩
  | some c => rw [entry] at error; cases error

/-- No symbol faults: a digit enters `DBL`, and a malformed symbol raises its error class (R112, R114). -/
theorem exec_decodeSymbol_ne_fault (c : Symbol) : exec (decodeSymbol c) s ≠ .fault f := by
  unfold decodeSymbol
  split_ifs <;> nofun

/-- All the ways in which the fetch step faults (R111). -/
theorem sequencerStep_fetch_fault (hu : s.unit = .fetch) :
    sequencerStep s = .fault f ↔ s.dpos.toNat < s.len.toNat ∧ readDigit s.dpos.toNat s = .error f := by
  rw [sequencerStep_fetch hu]
  by_cases left : s.dpos.toNat < s.len.toNat
  · cases readDigit s.dpos.toNat s with
    | error g => simp [left]
    | ok c => simp [left, exec_decodeSymbol_ne_fault]
  · simp [left]

/-- All the ways in which the `FIN` step faults (R115). -/
theorem finStep_fault : finStep s = .fault f ↔ s.len ≠ 0#16 ∧ readDigit (s.len.toNat - 1) s = .error f := by
  unfold finStep
  by_cases empty : s.len = 0#16
  · simp [empty]
  · cases readDigit (s.len.toNat - 1) s <;> simp [empty]

/-! ## Every step -/

/-- The faults of the sequencer's step, unit by unit. -/
theorem listedFault_of_sequencer (inv : Invariant s) (fault : sequencerStep s = .fault f) : listedFault s f := by
  have bound := inv.upc_bound
  cases hu : s.unit with
  | idle => rw [sequencerStep_idle hu] at fault; cases fault
  | affsel => rw [sequencerStep_affsel hu] at fault; cases fault
  | fetch =>
    obtain ⟨left, error⟩ := (sequencerStep_fetch_fault hu).mp fault
    have fits := inv.len_bound (by simp [inDriver, hu])
    obtain ⟨unwritten, rfl⟩ := readDigit_error (by omega) error
    exact ⟨unwritten, .inl ⟨hu, rfl, left⟩⟩
  | fin =>
    rw [sequencerStep_fin hu] at fault
    obtain ⟨nonempty, error⟩ := finStep_fault.mp fault
    have fits := inv.len_bound (by simp [inDriver, hu])
    have positive : s.len.toNat ≠ 0 := fun h => nonempty (BitVec.eq_of_toNat_eq h)
    obtain ⟨unwritten, rfl⟩ := readDigit_error (by omega) error
    exact ⟨unwritten, .inr ⟨hu, by omega, rfl⟩⟩
  | init | dbl | add | aff1 | aff0 =>
    rw [if_neg (by simp [hu, romLength])] at bound
    obtain ⟨op, dst, sa, sb, fields, legal, -⟩ := slotFields_of_lt bound
    rw [sequencerStep_slot inv.not_injected bound fields, microStep_fault, legal] at fault
    obtain ⟨illegal, -⟩ | ⟨-, error⟩ := fault
    · cases illegal
    · exact listedFault_of_microResult inv fields error

/-- The faults of the accept step are its checks (R161). -/
theorem listedFault_of_command (inv : Invariant s) {c : Code} (fault : exec (decodeCommand c) s = .fault f) :
    listedFault s f := by
  have legal : decodeCommand c ∈ legalCommands := legalCommand_of_fault fault
  obtain ⟨free, failed⟩ := (exec_command_fault legal).mp fault
  have idle := Invariant_idle_of_not_busy inv free
  have modulus : checkModulus s = some f → listedFault s f := fun failed => by
    obtain ⟨hp, rfl⟩ | ⟨hp, hmc, rfl⟩ | ⟨p, hp, hmc, bad, rfl⟩ := checkModulus_some failed
    · exact ⟨idle, hp⟩
    · exact ⟨idle, hp, hmc⟩
    · refine ⟨idle, hp, hmc, fun good => ?_⟩
      rw [(goodModulus_iff _ _).mpr good] at bad
      cases bad
  obtain failed | ⟨-, failed⟩ := failed
  · exact modulus failed
  · obtain failed | ⟨-, long, rfl⟩ := checkDriver_some failed
    · exact modulus failed
    · exact ⟨idle, rfl, long⟩

/-- Whether a fault is listed does not depend on what the host asks. -/
theorem listedFault_of_inputs {is : List Input} (listed : listedFault { s with inputs := is } f) : listedFault s f := by
  cases f with
  | unwrittenRead src => cases src <;> exact listed
  | _ => exact listed

end Slot

/-- Settles O43: a step that faults is one of the sequencer's or an accept step. -/
theorem faultsAreThoseTheRulesList : Obligations.FaultsAreThoseTheRulesList := by
  intro s f inv fault
  have inputs (is : List Input) : Invariant { s with inputs := is } := Invariant_of_eq inv rfl
  refine ⟨?_, afterReset_eq_none.mp (faultExit_eq_fault fault).2⟩
  obtain ⟨is, taken⟩ | ⟨v, rest, -, taken⟩ | ⟨t, taken, -⟩ := step_taken s
  · rw [taken] at fault
    exact listedFault_of_inputs (listedFault_of_sequencer (inputs is) (faultExit_eq_fault fault).1)
  · rw [taken] at fault
    exact listedFault_of_inputs (listedFault_of_command (inputs rest) (faultExit_eq_fault fault).1)
  · rw [taken] at fault
    cases fault

end Sys2Proof.Proofs
end

section
/-!
The error flags, which a step outside the accept and the reset only sets, each in its own class (R152 to R158), and
reset as the exit from a model fault (R159, R170): whether a step faults does not depend on what the host asks later.
-/

namespace Sys2Proof.Proofs

open Sys2Proof.Machine Sys2Proof.Laws

/-! ## The error flags under the sequencer's step -/

/-- The flags of the three error classes (R151). -/
def errorFlags : List Flag := [.errDigit, .errNorm, .errCmd]

/-- The error classes that the sequencer's step raises, each with the way it takes (R152, R153, R157). -/
def Raised (f : Flag) (s t : State) : Prop :=
  (f = .errDigit ∧ s.unit = .fetch ∧ t.unit = .fin) ∨ (f = .errNorm ∧ s.unit = .affsel ∧ t.unit = .idle)

section ErrorFlag
variable {f : Flag}

/-- The flags that a finish or the converter sets are not those of the error classes (R30). -/
theorem ne_of_errorFlag (error : f ∈ errorFlags) : .busy ≠ f ∧ .done ≠ f ∧ .outValid ≠ f ∧ .branch ≠ f := by
  simp only [errorFlags, List.mem_cons, List.not_mem_nil, or_false] at error
  obtain rfl | rfl | rfl := error <;> decide

theorem errorFlag_finish (error : f ∈ errorFlags) (s : State) : flag f (finish s) = flag f s := by
  obtain ⟨busy, done, -, -⟩ := ne_of_errorFlag error
  rw [flag_finish, if_neg done.symm, if_neg busy.symm]

/-- No end of a microprogram changes an error flag (R142). -/
theorem errorFlag_endTransition (error : f ∈ errorFlags) (s : State) : flag f (endTransition s) = flag f s := by
  obtain ⟨-, -, outValid, branch⟩ := ne_of_errorFlag error
  unfold endTransition
  split <;> (repeat' split) <;> simp [-flag_finish, errorFlag_finish error, outValid, branch]

/-- Nor does any micro-operation (R33, R77). -/
theorem errorFlag_retire (error : f ∈ errorFlags) (op : OpKind) (dst sa : Reg) (sb : Option Reg) (v : Nat) (s : State) :
    flag f (retire op dst sa sb v s) = flag f s := by
  rw [retire_eq_advance, advance]
  split
  · exact errorFlag_endTransition error _
  · rfl

/-- The sequencer's step leaves an error flag, or raises its class. -/
theorem errorFlag_of_sequencer (error : f ∈ errorFlags) {s t : State} (k : SequencerKind s t) :
    flag f t = flag f s ∨ (flag f t = true ∧ Raised f s t) := by
  cases k with
  | slot op dst sa sb v _ _ _ _ result_eq =>
    rw [result_eq]
    exact .inl (errorFlag_retire error op dst sa sb v s)
  | word op dst sa sb v _ _ result_eq =>
    rw [result_eq]
    exact .inl (errorFlag_retire error op dst sa sb v _)
  | digit c _ _ _ result_eq =>
    rw [result_eq]
    exact .inl rfl
  | malformed c unit result_eq =>
    rw [result_eq]
    by_cases class_eq : Flag.errDigit = f
    · exact .inr ⟨by simp [class_eq], .inl ⟨class_eq.symm, unit, by simp⟩⟩
    · exact .inl (by simp [class_eq])
  | noDigit _ result_eq =>
    rw [result_eq]
    exact .inl rfl
  | fin c _ result_eq =>
    rw [result_eq, afterFin]
    split
    · exact .inl rfl
    · exact .inl (errorFlag_finish error _)
  | select unit result_eq =>
    rw [result_eq, selectStep]
    split_ifs
    · exact .inl rfl
    · exact .inl rfl
    · rw [raiseError_unsupportedNormalizationBranch, errorFlag_finish error]
      by_cases class_eq : Flag.errNorm = f
      · exact .inr ⟨by simp [class_eq], .inr ⟨class_eq.symm, unit, rfl⟩⟩
      · exact .inl (by simp [class_eq])
  | idle _ result_eq =>
    rw [result_eq]
    exact .inl rfl

/-- Any step but an accept step and a reset leaves an error flag, or raises its class. -/
theorem errorFlag_of_step (error : f ∈ errorFlags) {s t : State} (next : step s = .next t) (noReset : ¬ ResetTaken s t)
    (noCommand : ∀ v, s.inputs.head? ≠ some (.write 0x0000 v)) :
    flag f t = flag f s ∨ (flag f t = true ∧ Raised f s t) := by
  obtain ⟨is, taken⟩ | ⟨v, rest, inputs, -⟩ | ⟨u, taken, same⟩ := step_taken s
  · rw [taken] at next
    obtain kind | ⟨_, rest, -, hr, result_eq⟩ := faultExit_eq_next next
    · exact errorFlag_of_sequencer (s := { s with inputs := is }) error (sequencerKind_of_next kind)
    · obtain ⟨before, -, inputs⟩ := afterReset_eq_some.mp hr
      exact absurd (resetTaken_of_reset (by simp [inputs]) result_eq) noReset
  · exact absurd (by simp [inputs]) (noCommand v)
  · rw [taken] at next
    cases next
    exact .inl (congrArg (getFlag · f) (same.resolve_left noReset))

end ErrorFlag

/-- Settles O42. -/
theorem errorFlagsStayUntilTheNextCommand : Obligations.ErrorFlagsStayUntilTheNextCommand := by
  intro s t next noReset noCommand
  have kept : ∀ f ∈ errorFlags, flag f t = flag f s ∨ (flag f t = true ∧ Raised f s t) := fun f error =>
    errorFlag_of_step error next noReset noCommand
  have raised : ∀ f ∈ errorFlags, flag f s = false → flag f t = true → Raised f s t := fun f error clear set =>
    ((kept f error).resolve_left fun same => by rw [set, clear] at same; cases same).2
  refine ⟨fun f error set => ?_, fun clear set => ?_, fun clear set => ?_, ?_⟩
  · obtain same | ⟨set', -⟩ := kept f error
    · exact same.trans set
    · exact set'
  · obtain ⟨-, way⟩ | ⟨other, -⟩ := raised .errDigit (by decide) clear set
    · exact way
    · cases other
  · obtain ⟨other, -⟩ | ⟨-, way⟩ := raised .errNorm (by decide) clear set
    · cases other
    · exact way
  · obtain same | ⟨-, ⟨other, -⟩ | ⟨other, -⟩⟩ := kept .errCmd (by decide)
    · exact same
    · cases other
    · cases other

/-! ## Faults and what the host asks later -/

/-- `s` with another list of what the outside world does. -/
def withInputs (is : List Input) (s : State) : State := { s with inputs := is }

section Inputs
variable {s : State} {f : Fault} (is : List Input)

theorem microResult_withInputs (k : OpKind) (sa : Reg) (sb : Option Reg) :
    microResult k sa sb (withInputs is s) = microResult k sa sb s := rfl

theorem microStep_fault_withInputs {k : OpKind} {dst sa : Reg} {sb : Option Reg} :
    microStep k dst sa sb (withInputs is s) = .fault f ↔ microStep k dst sa sb s = .fault f := by
  rw [microStep_fault, microStep_fault, microResult_withInputs]

/-- At a unit that names a ROM, whether its word or an injected one is run. -/
theorem sequencerStep_rom_fault_withInputs (rom : romLength s.unit ≠ 0) (fault : sequencerStep s = .fault f) :
    sequencerStep (withInputs is s) = .fault f := by
  cases injected : s.injected with
  | none =>
    by_cases inside : s.upc < romLength s.unit
    · obtain ⟨op, dst, sa, sb, fields, -⟩ := slotFields_of_lt inside
      rw [sequencerStep_slot injected inside fields] at fault
      rw [sequencerStep_slot (s := withInputs is s) injected inside fields]
      exact (microStep_fault_withInputs is).mpr fault
    · have above := Nat.le_of_not_lt inside
      rw [sequencerStep_noWord injected rom above] at fault
      rw [sequencerStep_noWord (s := withInputs is s) injected rom above]
      exact fault
  | some w =>
    rw [sequencerStep_word injected rom] at fault
    rw [sequencerStep_word (s := withInputs is s) injected rom]
    cases decoded : decodeMicro w with
    | error e =>
      rw [decoded] at fault
      exact fault
    | ok i =>
      rw [decoded] at fault
      obtain ⟨op, dst, sa, sb, runs⟩ | ⟨v, faults⟩ := exec_decodeMicro decoded
      · simp only [runs] at fault ⊢
        exact (microStep_fault_withInputs (s := { s with injected := none }) is).mpr fault
      · simp only [faults] at fault ⊢
        exact fault

/-- The sequencer's step reads none of what the host asks. -/
theorem sequencerStep_fault_withInputs (fault : sequencerStep s = .fault f) :
    sequencerStep (withInputs is s) = .fault f := by
  cases hu : s.unit with
  | idle => rw [sequencerStep_idle hu] at fault; cases fault
  | affsel => rw [sequencerStep_affsel hu] at fault; cases fault
  | fetch =>
    exact (sequencerStep_fetch_fault (s := withInputs is s) hu).mpr ((sequencerStep_fetch_fault hu).mp fault)
  | fin =>
    rw [sequencerStep_fin hu] at fault
    rw [sequencerStep_fin (s := withInputs is s) hu]
    exact (finStep_fault (s := withInputs is s)).mpr ((finStep_fault (s := s)).mp fault)
  | init | dbl | add | aff1 | aff0 => exact sequencerStep_rom_fault_withInputs is (by simp [hu, romLength]) fault

/-- Nor do the checks of the accept step. -/
theorem command_fault_withInputs {c : Code} (fault : exec (decodeCommand c) s = .fault f) :
    exec (decodeCommand c) (withInputs is s) = .fault f := by
  have legal := legalCommand_of_fault fault
  exact (exec_command_fault (s := withInputs is s) legal).mpr ((exec_command_fault (s := s) legal).mp fault)

/-- A step that faults faults too where the outside world goes on to do more, unless it had asked nothing: then the first
thing that it now asks is what the step is about. -/
theorem step_fault_append {i : Input} {before : List Input} (inputs : s.inputs = i :: before)
    (fault : step s = .fault f) (more : List Input) :
    step (withInputs (i :: (before ++ more)) s) = faultExit (withInputs (i :: (before ++ more)) s) (.fault f) := by
  cases i with
  | tick =>
    rw [step_tick inputs] at fault
    rw [step_tick (s := withInputs _ s) rfl]
    exact congrArg _ (sequencerStep_fault_withInputs (s := { s with inputs := before }) (before ++ more)
      (faultExit_eq_fault fault).1)
  | waitDone =>
    cases done : flag .done s with
    | true => rw [step_wait_over inputs done] at fault; cases fault
    | false =>
      rw [step_wait inputs done] at fault
      rw [step_wait (s := withInputs _ s) rfl done]
      exact congrArg _ (sequencerStep_fault_withInputs _ (faultExit_eq_fault fault).1)
  | reset => rw [step_reset inputs] at fault; cases fault
  | read ha => rw [step_read inputs] at fault; cases fault
  | write ha v =>
    by_cases command : ha = 0x0000 ∧ hostWriteLegal ha v s = true
    · obtain ⟨rfl, legal⟩ := command
      rw [step_command inputs legal] at fault
      rw [step_command (s := withInputs _ s) rfl legal]
      exact congrArg _ (command_fault_withInputs (s := { s with inputs := before }) (before ++ more)
        (faultExit_eq_fault fault).1)
    · rw [step_write inputs command] at fault
      cases fault

end Inputs

/-- Settles O59. -/
theorem resetIsTheExitFromAModelFault : Obligations.ResetIsTheExitFromAModelFault := by
  intro s f before rest noReset fault
  cases before with
  | nil => exact step_reset (s := { s with inputs := .reset :: rest }) rfl
  | cons i before =>
    have later : afterReset (i :: (before ++ .reset :: rest)) = some rest :=
      afterReset_eq_some.mpr ⟨i :: before, noReset, rfl⟩
    calc step (withInputs (i :: (before ++ .reset :: rest)) s)
        = faultExit (withInputs (i :: (before ++ .reset :: rest)) s) (.fault f) :=
          step_fault_append (s := { s with inputs := i :: before }) rfl fault (.reset :: rest)
      _ = .next { State.resetWith s.params with inputs := rest } :=
          faultExit_of_some (s := withInputs (i :: (before ++ .reset :: rest)) s) later f

end Sys2Proof.Proofs
end

section
/-!
The worked words, symbols and command codes of V19 (R57 to R69). The legal words are read back from what the encoder
writes; for the others it is said here, once for every word, what makes the decoder reject it and with which reason.
-/

namespace Sys2Proof.Proofs

open Sys2Proof.Machine Sys2Proof.Laws

/-! ## The reasons of the decoder (R60, R61) -/

theorem decodeMicro_of_encode {w : MicroWord} {i : Instr} (wf : wellFormed i = true) (henc : encode i = .word w) :
    decodeMicro w = .ok i := by
  simpa [henc, decode] using decodeInvertsEncode i wf

section Reasons
variable {w : MicroWord}

/-- The destination is examined first, whatever the operation. -/
theorem decodeMicro_illegalDst {r : Reg} (low : 1 ≤ w.toNat / 4096) (high : w.toNat / 4096 ≤ 5)
    (named : regOfIndex (dstField w) = some r) (illegal : r.legalDst = false) :
    decodeMicro w = .error (.illegalDst w) := by
  have rejected : decodeDst w = .error (.illegalDst w) := by simp [decodeDst, named, illegal]
  cases microDecoding w with
  | two k make op range decoded fields => rw [decoded, decodeTwo, rejected]
  | one k make op range decoded fields => rw [decoded, decodeOne, rejected]
  | reserved range decoded => omega

/-- The reserved index 15 as first source. -/
theorem decodeMicro_reservedSource {dst : Reg} (low : 1 ≤ w.toNat / 4096) (high : w.toNat / 4096 ≤ 5)
    (accepted : decodeDst w = .ok dst) (unnamed : regOfIndex (saField w) = none) :
    decodeMicro w = .error (.reservedRegister w) := by
  cases microDecoding w with
  | two k make op range decoded fields => simp [decoded, decodeTwo, accepted, unnamed]
  | one k make op range decoded fields => simp [decoded, decodeOne, accepted, unnamed]
  | reserved range decoded => omega

/-- A one-source operation has no second source to name. -/
theorem decodeMicro_nonzeroSb {dst sa : Reg} (low : 4 ≤ w.toNat / 4096) (high : w.toNat / 4096 ≤ 5)
    (accepted : decodeDst w = .ok dst) (named : regOfIndex (saField w) = some sa) (second : sbField w ≠ 0#4) :
    decodeMicro w = .error (.nonzeroSb w) := by
  cases microDecoding w with
  | two k make op range decoded fields => omega
  | one k make op range decoded fields => simp [decoded, decodeOne, accepted, named, second]
  | reserved range decoded => omega

end Reasons

/-! ## The table of V19 -/

/-- Settles O1: each word is an encoding, has a reserved `OP` or fails one check of R60; the symbols and the codes are
those of R67 to R69. -/
theorem workedWordsDecode : Obligations.WorkedWordsDecode := by
  obtain ⟨dbl, add, smul, aff, kp, illegal, zero, one, malformed⟩ := commandAndSymbolCodesDecode
  refine ⟨decodeMicro_of_encode rfl rfl, decodeMicro_of_encode rfl rfl, decodeMicro_of_encode rfl rfl,
    decodeMicro_of_encode rfl rfl, decodeMicro_of_encode rfl rfl, decodeMicro_of_encode rfl rfl,
    decodeMicro_of_encode rfl rfl, decodeMicro_reserved (by decide), decodeMicro_reserved (by decide),
    decodeMicro_illegalDst (r := .ax) (by decide) (by decide) rfl rfl,
    decodeMicro_illegalDst (r := .one) (by decide) (by decide) rfl rfl,
    decodeMicro_reservedSource (dst := .x) (by decide) (by decide) rfl rfl,
    decodeMicro_nonzeroSb (dst := .t0) (sa := .r1) (by decide) (by decide) rfl rfl (by decide),
    decodeMicro_nonzeroSb (dst := .r1) (sa := .r0) (by decide) (by decide) rfl rfl (by decide),
    zero, one, fun c listed => ?_, dbl, add, smul, aff, kp, fun c listed => ?_⟩
  · have noDigit : ∀ c ∈ [0x00#8, 0x20#8, 0x2F#8, 0x32#8, 0x78#8, 0xFF#8], c ≠ 0x30#8 ∧ c ≠ 0x31#8 := by decide
    obtain ⟨not0, not1⟩ := noDigit c listed
    exact malformed c not0 not1
  · have outside : ∀ c ∈ [0x00#8, 0x06#8, 0x80#8, 0xFF#8], c.toNat = 0 ∨ 6 ≤ c.toNat := by decide
    exact illegal c (outside c listed)

end Sys2Proof.Proofs
end
